-- ==== Sys2Proof/Word.lean ====
section
/-! DEFINITION. The word types of the TCE, one name for each width parameter of 00_scope.md R6: a width stands here and
nowhere else. No rule depends on a width (10_state.md R21). -/

namespace Sys2Proof

/-! ## Registers (10_state.md R21) -/

/-- ct.year and every year of a target. -/
abbrev YearReg := BitVec 7

/-- ct.day and every day of a target. -/
abbrev DayReg := BitVec 9

/-- ct.hour and every hour of a target. -/
abbrev HourReg := BitVec 5

/-- ct.minute and every minute of a target. -/
abbrev MinuteReg := BitVec 6

/-- ct.second. -/
abbrev SecondReg := BitVec 6

/-- off.hours. -/
abbrev OffsetHoursReg := BitVec 4

/-- The cursor. -/
abbrev CursorReg := BitVec 5

/-- bitIndex, findex and IRIG_RC_BIT: a table position. -/
abbrev PositionReg := BitVec 7

/-! ## Table entries (30_encoding.md R80) -/

/-- One table entry as the tables hold it. -/
abbrev Byte := BitVec 8

/-- The operation number of an entry. -/
abbrev OpNumber := BitVec 4

/-- The argument of an entry: a kind or a mask (R83). -/
abbrev Argument := BitVec 4

/-! ## Buffers and the control-functions word (00_scope.md R7, 43_bcd_encoder.md R228) -/

/-- A digit of a BCD buffer, 0 to 15. -/
abbrev Digit := BitVec 4

/-- The control-functions word, parity included. -/
abbrev ControlWord := BitVec 15

/-- The time-quality code (10_state.md R40). -/
abbrev TimeQuality := BitVec 4

/-- DUT1: sign in bit 3, magnitude below (10_state.md R41). -/
abbrev Dut1 := BitVec 4

/-! ## PulseSpec (10_state.md R46) -/

/-- durationMs. -/
abbrev Milliseconds := BitVec 10

/-- frequencyHz. -/
abbrev Hertz := BitVec 11

/-! ## Codes of the enumerations (10_state.md R26, R44, R46, 60_exceptions.md R261) -/

/-- The rate-correction port. -/
abbrev RcPort := BitVec 2

/-- The code of a LeapState. -/
abbrev LeapStateCode := BitVec 2

/-- The code of an amplitude level. -/
abbrev LevelCode := BitVec 2

/-- The code of a fault cause. -/
abbrev CauseCode := BitVec 3

end Sys2Proof
end

