-- ==== Sys2Proof/Syntax.lean ====
section
/-! DEFINITION. The thirteen table operations (30_encoding.md R82), one constructor per row of spec/opcode_table.json. -/

namespace Sys2Proof

/-- A table entry that names an operation. The kind and mask forms keep their 4-bit argument whatever its value
(R83, R84); the ignored form has none (R83, R91; log 17). -/
inductive Instr where
  | sendData (kind : Argument)
  | sendDataNoTick (kind : Argument)
  | sendCoefficientBit (mask : Argument)
  | decrementSendPI
  | decrementSendBit (mask : Argument)
  | decrementSendZero
  | noDecrementPI
  | decrementNoTickPI
  | minuteMarker
  | leapWarningBit
  | dut1Bit (mask : Argument)
  | dst1Bit
  | dst2Bit
deriving DecidableEq, Repr

end Sys2Proof
end

