-- ==== Sys2Proof/WellFormed.lean ====
section
/-! DEFINITION. Which entries are legal in themselves (30_encoding.md R88). An ill-formed entry still decodes (R81) and
raises ArgFault when it is executed; legality by format is `admitted` in Machine/Operands.lean (R89). -/

namespace Sys2Proof

/-- A kind argument names a pulse iff it is 0, 1 or 2 (R83, R88). -/
def kindLegal (arg : Argument) : Bool := arg.toNat < 3

/-- R88 for the kind form; a mask may have any value (R84); the ignored form has nothing to check. -/
def Instr.wf : Instr → Bool
  | .sendData kind => kindLegal kind
  | .sendDataNoTick kind => kindLegal kind
  | .sendCoefficientBit _ => true
  | .decrementSendPI => true
  | .decrementSendBit _ => true
  | .decrementSendZero => true
  | .noDecrementPI => true
  | .decrementNoTickPI => true
  | .minuteMarker => true
  | .leapWarningBit => true
  | .dut1Bit _ => true
  | .dst1Bit => true
  | .dst2Bit => true

end Sys2Proof
end

