-- ==== Sys2Proof/Decode.lean ====
section
/-! DEFINITION. Format E8 (30_encoding.md R80 to R83): the decoder, total on any byte, the encoder, and the assembler
notation of R91. -/

namespace Sys2Proof

/-- Why a byte names no operation. -/
inductive DecodeError where
  /-- `op` is 13, 14 or 15 (R87); the sequencer raises OpFault with it. Safe. -/
  | illegalOperation (op : OpNumber)
deriving DecidableEq, Repr

/-- bits[7:4] of an entry (R80). -/
def opField (b : Byte) : OpNumber := b.extractLsb' 4 4

/-- bits[3:0] of an entry (R80). -/
def argField (b : Byte) : Argument := b.extractLsb' 0 4

/-- Decoding of an entry by its two fields (R81, R82): never depends on state, format or neighbouring entries. -/
def decodeFields (op : OpNumber) (arg : Argument) : Except DecodeError Instr :=
  match op.toNat with
  | 0 => .ok (.sendData arg)
  | 1 => .ok (.sendDataNoTick arg)
  | 2 => .ok (.sendCoefficientBit arg)
  | 3 => .ok .decrementSendPI
  | 4 => .ok (.decrementSendBit arg)
  | 5 => .ok .decrementSendZero
  | 6 => .ok .noDecrementPI
  | 7 => .ok .decrementNoTickPI
  | 8 => .ok .minuteMarker
  | 9 => .ok .leapWarningBit
  | 10 => .ok (.dut1Bit arg)
  | 11 => .ok .dst1Bit
  | 12 => .ok .dst2Bit
  | _ => .error (.illegalOperation op)

/-- Decoding of a byte (R81). -/
def decode (b : Byte) : Except DecodeError Instr :=
  decodeFields (opField b) (argField b)

/-- The operation number (R82). -/
def opcode : Instr → OpNumber
  | .sendData _ => 0
  | .sendDataNoTick _ => 1
  | .sendCoefficientBit _ => 2
  | .decrementSendPI => 3
  | .decrementSendBit _ => 4
  | .decrementSendZero => 5
  | .noDecrementPI => 6
  | .decrementNoTickPI => 7
  | .minuteMarker => 8
  | .leapWarningBit => 9
  | .dut1Bit _ => 10
  | .dst1Bit => 11
  | .dst2Bit => 12

/-- The argument an entry assembles with; 0 for the ignored form (R83, R91). -/
def argument : Instr → Argument
  | .sendData kind => kind
  | .sendDataNoTick kind => kind
  | .sendCoefficientBit mask => mask
  | .decrementSendPI => 0
  | .decrementSendBit mask => mask
  | .decrementSendZero => 0
  | .noDecrementPI => 0
  | .decrementNoTickPI => 0
  | .minuteMarker => 0
  | .leapWarningBit => 0
  | .dut1Bit mask => mask
  | .dst1Bit => 0
  | .dst2Bit => 0

/-- The byte of an entry: op in bits 7:4, arg in bits 3:0 (R80). -/
def encode (i : Instr) : Byte := opcode i ++ argument i

/-- True of the eight operations that do not read their argument (R83). -/
def argIgnored : Instr → Bool
  | .sendData _ => false
  | .sendDataNoTick _ => false
  | .sendCoefficientBit _ => false
  | .decrementSendPI => true
  | .decrementSendBit _ => false
  | .decrementSendZero => true
  | .noDecrementPI => true
  | .decrementNoTickPI => true
  | .minuteMarker => true
  | .leapWarningBit => true
  | .dut1Bit _ => false
  | .dst1Bit => true
  | .dst2Bit => true

/-- The operand of the kind form in the notation of R91; nothing names a kind 3 to 15. -/
def kindName (arg : Argument) : Option String :=
  match arg.toNat with
  | 0 => some "zero"
  | 1 => some "one"
  | 2 => some "pi"
  | _ => none

/-- The assembler notation of an entry (R91); an illegal kind has none. -/
def assembly : Instr → Option String
  | .sendData kind => (kindName kind).map ("SendData " ++ ·)
  | .sendDataNoTick kind => (kindName kind).map ("SendDataNoTick " ++ ·)
  | .sendCoefficientBit mask => some ("SendCoefficientBit " ++ toString mask.toNat)
  | .decrementSendPI => some "DecrementSendPI"
  | .decrementSendBit mask => some ("DecrementSendBit " ++ toString mask.toNat)
  | .decrementSendZero => some "DecrementSendZero"
  | .noDecrementPI => some "NoDecrementPI"
  | .decrementNoTickPI => some "DecrementNoTickPI"
  | .minuteMarker => some "MinuteMarker"
  | .leapWarningBit => some "LeapWarningBit"
  | .dut1Bit mask => some ("Dut1Bit " ++ toString mask.toNat)
  | .dst1Bit => some "Dst1Bit"
  | .dst2Bit => some "Dst2Bit"

/-- The host's question: the instruction the decoder reads from a word of spec/opcode_table.json. Every entry is one
byte (R80, R90), so a word of another length is none of this machine's (log 24). -/
def decodeTableWord (nbits w : Nat) : Option Instr :=
  if nbits = 8 then
    match decode (BitVec.ofNat _ w) with
    | .ok i => some i
    | .error _ => none
  else none

end Sys2Proof
end

