-- ==== Sys2Proof/Config.lean ====
section
/-! DEFINITION. What an implementation or a host fixes: the configuration inputs `C` (10_state.md R36 to R45), the named
parameters of 00_scope.md R6, the data types they are made of, and the two values the spec leaves open. -/

namespace Sys2Proof

/-- CivilTime (10_state.md R22), with the widths of R21. -/
structure CivilTime where
  year : YearReg
  day : DayReg
  hour : HourReg
  minute : MinuteReg
  second : SecondReg
deriving DecidableEq, Repr

/-- A target (year, dayOfYear, hour, minute) of a leap second or a DST switch (00_scope.md R12). -/
structure Target where
  year : YearReg
  day : DayReg
  hour : HourReg
  minute : MinuteReg
deriving DecidableEq, Repr

/-- The IEEE-1344 UTC-offset field: sign, whole hours, half-hour flag (10_state.md R28); `sign = true` is negative. -/
structure Offset where
  sign : Bool
  hours : OffsetHoursReg
  half : Bool
deriving DecidableEq, Repr

/-- amplitudeLevel (10_state.md R46). -/
inductive Level where
  | off
  | low
  | high
deriving DecidableEq, Repr

/-- PulseSpec (10_state.md R46): integer milliseconds and hertz in 10 and 11 bits. -/
structure PulseSpec where
  durationMs : Milliseconds
  frequencyHz : Hertz
  level : Level
deriving DecidableEq, Repr

/-- The rate-correction mode (10_state.md R44). -/
inductive RcMode where
  | none
  | addCycle
  | removeCycle
deriving DecidableEq, Repr

/-- C.fmt (10_state.md R36). -/
structure Format where
  irig : Bool
  year : Bool
  ieee : Bool
deriving DecidableEq, Repr

/-- C.leap (10_state.md R37): the two requests and the target both share. -/
structure LeapRequest where
  ins : Bool
  del : Bool
  target : Target
deriving DecidableEq, Repr

/-- C.dst (10_state.md R39). -/
structure DstInputs where
  req : Bool
  active0 : Bool
  target : Target
deriving DecidableEq, Repr

/-- The lists an integrator supplies for EXTRA_SECOND_IRIG, one for each rate-correction mode: the natural value
`WwvData(Zero, true, rc)` depends on it (42_pulse_ops.md R194). -/
structure ExtraGroups where
  nominal : List PulseSpec
  lengthened : List PulseSpec
  shortened : List PulseSpec
deriving DecidableEq, Repr

/-- The five IRIG-B frame tables (20_memory.md R60). -/
inductive IrigTable where
  | t1
  | t2
  | t3
  | t4
  | t5
deriving DecidableEq, Repr

/-- The frame-to-table map: for each of the ten frames of an IRIG-B second the table it reads (41_format_tables.md R146,
configuration by 92_eei_decisions.md D8; log 26). -/
structure FrameMap where
  frame1 : IrigTable
  frame2 : IrigTable
  frame3 : IrigTable
  frame4 : IrigTable
  frame5 : IrigTable
  frame6 : IrigTable
  frame7 : IrigTable
  frame8 : IrigTable
  frame9 : IrigTable
  frame10 : IrigTable
deriving DecidableEq, Repr

/-- The contents of the six format tables (20_memory.md R60), as the cells that differ from the default contents.
Addresses, canonical form and access are in Machine/Memory.lean. -/
abbrev Memory := List Host.Cell

/-- The configuration `C`: constant from one LOAD to the next (10_state.md R45). -/
structure Config where
  fmt : Format
  leap : LeapRequest
  start : CivilTime
  dst : DstInputs
  off : Offset
  /-- time-quality code (R40) -/
  tq : TimeQuality
  /-- DUT1 sign (bit 3) and magnitude (R41) -/
  dut1 : Dut1
  /-- leap-warning flag (R42) -/
  leapWarn : Bool
  /-- base sync frequency (R43) -/
  fSync : Hertz
  /-- hour frequency (R43) -/
  fHour : Hertz
  /-- WWV_TABLE and IRIG_T1 to IRIG_T5 (R45) -/
  tables : Memory
  /-- the frame-to-table map (R146, D8) -/
  frames : FrameMap
  /-- IRIG_RC_BIT (42_pulse_ops.md R174) -/
  irigRcBit : PositionReg
  /-- EXTRA_SECOND_IRIG where the integrator supplies it; `none` leaves it open (42_pulse_ops.md R194). -/
  extraSecondIrig : Option ExtraGroups
  /-- WWV_W0 (R170) -/
  wwvW0 : Milliseconds
  /-- WWV_W1 (R170) -/
  wwvW1 : Milliseconds
  /-- WWV_WP (R170) -/
  wwvWp : Milliseconds
deriving DecidableEq, Repr

/-- DESIGN CHOICE, safe (log 8). EXTRA_SECOND_IRIG is OPEN and has no default (92_eei_decisions.md D15): a free value
of the rate correction, the only thing but constants that one of its natural values depends on (R194). -/
opaque Config.openExtraSecondIrig : RcMode → List PulseSpec

/-- DESIGN CHOICE, safe (log 9). The duration of an interval whose exact sum does not fit the unsigned 10-bit format of
R46: the spec states no value there, so it is a free value of that sum. -/
opaque Config.openInterval : Int → Milliseconds

end Sys2Proof
end

