-- ==== Sys2Proof/Machine/Memory.lean ====
section
/-! DEFINITION. The six format tables as one memory (20_memory.md R60 to R64): the index spaces, the default contents
(41_format_tables.md R142, R147 to R151), and the operations over the canonical list of cells. -/

namespace Sys2Proof.Machine

/-- The six table spaces (R60). -/
inductive TableSpace where
  | wwv
  | irigT1
  | irigT2
  | irigT3
  | irigT4
  | irigT5
deriving DecidableEq, Repr

/-- How many entries a table has (R60). -/
def TableSpace.size : TableSpace → Nat
  | .wwv => 61
  | .irigT1 => 10
  | .irigT2 => 10
  | .irigT3 => 10
  | .irigT4 => 10
  | .irigT5 => 10

/-- DESIGN CHOICE, safe (log 7): where a table's entry 0 stands in the model's flat numbering of all entries. -/
def TableSpace.base : TableSpace → Nat
  | .wwv => 0
  | .irigT1 => 61
  | .irigT2 => 71
  | .irigT3 => 81
  | .irigT4 => 91
  | .irigT5 => 101

/-- The flat address of entry `i` of table `t`; none outside the table's index range. -/
def tableAddr (t : TableSpace) (i : Nat) : Option Nat :=
  if i < t.size then some (t.base + i) else none

/-- Default contents of WWV_TABLE (R142). -/
def wwvDefault : List Byte :=
  [0x80, 0x00, 0xC0, 0x90, 0x21, 0x22, 0x24, 0x28, 0x50, 0x02] ++
  [0x21, 0x22, 0x24, 0x28, 0x50, 0x21, 0x22, 0x24, 0x28, 0x30] ++
  [0x21, 0x22, 0x24, 0x28, 0x50, 0x21, 0x22, 0x24, 0x28, 0x70] ++
  [0x21, 0x22, 0x24, 0x28, 0x50, 0x21, 0x22, 0x24, 0x28, 0x30] ++
  [0x21, 0x22, 0x24, 0x28, 0x50, 0x00, 0x00, 0x00, 0x00, 0x02] ++
  [0xA8, 0x21, 0x22, 0x24, 0x28, 0xB0, 0xA1, 0xA2, 0xA4, 0x12] ++
  [0x00]

/-- Default contents of IRIG_T1 (R147). -/
def irigT1Default : List Byte := [0x60, 0x21, 0x22, 0x24, 0x28, 0x50, 0x21, 0x22, 0x24, 0x30]

/-- Default contents of IRIG_T2 (R148). -/
def irigT2Default : List Byte := [0x21, 0x22, 0x24, 0x28, 0x50, 0x21, 0x22, 0x24, 0x28, 0x30]

/-- Default contents of IRIG_T3 (R149). -/
def irigT3Default : List Byte := [0x21, 0x22, 0x24, 0x28, 0x41, 0x22, 0x24, 0x28, 0x41, 0x60]

/-- Default contents of IRIG_T4 (R150). -/
def irigT4Default : List Byte := [0x22, 0x24, 0x28, 0x41, 0x22, 0x24, 0x28, 0x41, 0x22, 0x30]

/-- Default contents of IRIG_T5 (R151). -/
def irigT5Default : List Byte := [0x22, 0x24, 0x28, 0x41, 0x22, 0x24, 0x28, 0x41, 0x00, 0x60]

/-- All default contents in the order of `TableSpace.base`. -/
def defaultImage : List Byte :=
  wwvDefault ++ irigT1Default ++ irigT2Default ++ irigT3Default ++ irigT4Default ++ irigT5Default

/-- What an unlisted address reads as: the default contents; none where no table has an entry. -/
def defaultByte (a : Nat) : Option Byte := defaultImage[a]?

/-- The listed byte of an address, if it is listed. -/
def lookupCell (a : Nat) : Memory → Option Byte
  | [] => none
  | c :: m => if c.1 = a then some c.2 else lookupCell a m

/-- One byte of the tables; none for an address that does not exist. -/
def Memory.read (m : Memory) (a : Nat) : Option Byte :=
  (defaultByte a).map fun d => (lookupCell a m).getD d

/-- The list without the entry of an address. -/
def eraseCell (a : Nat) : Memory → Memory
  | [] => []
  | c :: m => if c.1 = a then m else c :: eraseCell a m

/-- The list with a byte at an address, in its place by address. -/
def insertCell (a : Nat) (b : Byte) : Memory → Memory
  | [] => [(a, b)]
  | c :: m => if a < c.1 then (a, b) :: c :: m else if c.1 = a then (a, b) :: m else c :: insertCell a b m

/-- A host's change of one entry before a LOAD. The TCE itself writes no memory (00_scope.md R8). Writing the default
removes the entry; an address that does not exist is left alone. -/
def Memory.write (m : Memory) (a : Nat) (b : Byte) : Memory :=
  match defaultByte a with
  | none => m
  | some d => if b = d then eraseCell a m else insertCell a b m

/-- A cell stands at an existing address and differs from what the address reads as unlisted. -/
def cellProper (c : Host.Cell) : Bool :=
  match defaultByte c.1 with
  | none => false
  | some d => c.2 != d

/-- Addresses strictly rising, each above `low` where that is given. -/
def risingFrom : Option Nat → Memory → Bool
  | _, [] => true
  | none, c :: m => risingFrom (some c.1) m
  | some l, c :: m => decide (l < c.1) && risingFrom (some c.1) m

/-- The canonical form: addresses strictly rising and every cell proper. -/
def Memory.wf (m : Memory) : Bool := risingFrom none m && m.all cellProper

/-- `TblRead(t, i)` (R63): the entry at index `i`; none outside the range, where the TCE never reads (R64). -/
def tblRead (m : Memory) (t : TableSpace) (i : Nat) : Option Byte :=
  (tableAddr t i).bind fun a => Memory.read m a

/-- The memory with entry `i` of table `t` set. -/
def tblWrite (m : Memory) (t : TableSpace) (i : Nat) (b : Byte) : Memory :=
  match tableAddr t i with
  | none => m
  | some a => Memory.write m a b

/-- The table space of an IRIG-B frame table (R60). -/
def irigSpace : IrigTable → TableSpace
  | .t1 => .irigT1
  | .t2 => .irigT2
  | .t3 => .irigT3
  | .t4 => .irigT4
  | .t5 => .irigT5

/-- `FrameTable(n)` (41_format_tables.md R146) under the configured map, for the frame numbers 1 to 10. -/
def frameTable (m : FrameMap) (n : Nat) : Option TableSpace :=
  match n with
  | 1 => some (irigSpace m.frame1)
  | 2 => some (irigSpace m.frame2)
  | 3 => some (irigSpace m.frame3)
  | 4 => some (irigSpace m.frame4)
  | 5 => some (irigSpace m.frame5)
  | 6 => some (irigSpace m.frame6)
  | 7 => some (irigSpace m.frame7)
  | 8 => some (irigSpace m.frame8)
  | 9 => some (irigSpace m.frame9)
  | 10 => some (irigSpace m.frame10)
  | _ => none

end Sys2Proof.Machine
end

