-- ==== Sys2Proof/Machine/Params.lean ====
section
/-! DEFINITION. Default values of the parameters (00_scope.md R6), the host's selectors (10_state.md R36, R43), the ranges
LOAD requires (70_reset_and_hazards.md R300, R301), and the codes of the enumerations (10_state.md R26, R44, R46). -/

namespace Sys2Proof.Machine

/-- The host's four-way format selector (R36). -/
inductive Selector where
  | wwv
  | irig1998
  | irig2004
  | irigIeee1344
deriving DecidableEq, Repr

/-- The format bits a selector value drives (R36). -/
def Selector.format : Selector → Format
  | .wwv => { irig := false, year := false, ieee := false }
  | .irig1998 => { irig := true, year := false, ieee := false }
  | .irig2004 => { irig := true, year := true, ieee := false }
  | .irigIeee1344 => { irig := true, year := true, ieee := true }

/-- The WWV sync tone selector (R43). -/
inductive SyncTone where
  | wwv
  | wwvh
deriving DecidableEq, Repr

/-- Default `fSync` of a tone selection (R43). -/
def SyncTone.fSync : SyncTone → Hertz
  | .wwv => 1000
  | .wwvh => 1200

/-- Port code of the rate-correction input (R44); code 3 is not to be driven. -/
def rcOfCode (code : RcPort) : Option RcMode :=
  match code.toNat with
  | 0 => some .none
  | 1 => some .addCycle
  | 2 => some .removeCycle
  | _ => none

/-- Code of an amplitude level on the output (R46). -/
def levelCode : Level → LevelCode
  | .off => 0
  | .low => 1
  | .high => 2

/-- `YearLength(y)` (40_civil_time.md R113): 366 iff `y & 3 = 0`. -/
def yearLength (y : YearReg) : Nat := if y &&& 3 = 0 then 366 else 365

/-- The start value LOAD requires (R300). -/
def startLegal (t : CivilTime) : Bool :=
  decide (t.year.toNat ≤ 99) && decide (1 ≤ t.day.toNat) && decide (t.day.toNat ≤ yearLength t.year) &&
  decide (t.hour.toNat ≤ 23) && decide (t.minute.toNat ≤ 59) && decide (t.second.toNat ≤ 59)

/-- The one DST request LOAD refuses (R301): its firing would subtract an hour from hour 0 without a ripple. -/
def dstRequestBorrows (d : DstInputs) : Bool :=
  d.req && d.active0 && d.target.hour == 0 && d.target.minute != 0

/-- The other requirements of LOAD (R301); the 4-bit codes meet theirs by their width. -/
def codesLegal (c : Config) : Bool :=
  c.fSync != 0 && c.fHour != 0 && (c.irigRcBit == 42 || c.irigRcBit == 43) && !dstRequestBorrows c.dst

/-- The default frame-to-table map (41_format_tables.md R146). -/
def defaultFrames : FrameMap where
  frame1 := .t1
  frame2 := .t2
  frame3 := .t2
  frame4 := .t2
  frame5 := .t2
  frame6 := .t2
  frame7 := .t3
  frame8 := .t4
  frame9 := .t3
  frame10 := .t5

/-- The start value of the default configuration: DESIGN CHOICE, unsafe (log 3). -/
def defaultStart : CivilTime := { year := 0, day := 1, hour := 0, minute := 0, second := 0 }

/-- A target of zeros, which no civil time equals, since the day is at least 1: DESIGN CHOICE, unsafe (log 3). -/
def defaultTarget : Target := { year := 0, day := 0, hour := 0, minute := 0 }

/-- The configuration of `State.reset`. Parameters stand at the defaults of R6; inputs to which the spec gives no value
are zero, but for the start day, which R300 requires to be at least 1: DESIGN CHOICE, unsafe (log 3). -/
def defaultConfig : Config where
  fmt := Selector.format .wwv
  leap := { ins := false, del := false, target := defaultTarget }
  start := defaultStart
  dst := { req := false, active0 := false, target := defaultTarget }
  off := { sign := false, hours := 0, half := false }
  tq := 0
  dut1 := 0
  leapWarn := false
  fSync := SyncTone.fSync .wwv
  fHour := 1500
  tables := []
  frames := defaultFrames
  irigRcBit := 42
  extraSecondIrig := none
  wwvW0 := 170
  wwvW1 := 570
  wwvWp := 770

end Sys2Proof.Machine
end

