-- ==== Sys2Proof/Machine/State.lean ====
section
/-! DEFINITION. The state of the TCE (10_state.md R20), the configuration the last LOAD sampled (R45), the inputs and the
output of the command in progress, the reasons a step can stop, and the state after reset (R48). -/

namespace Sys2Proof.Machine

/-- LeapState (10_state.md R25). -/
inductive LeapState where
  | normal
  | deleting
  | inserting
  | zeroAfterInsert
deriving DecidableEq, Repr

/-- Cause of the sticky fault (60_exceptions.md R261). -/
inductive FaultCause where
  | none
  | opFault
  | argFault
  | formatFault
  | cursorUnderrun
deriving DecidableEq, Repr

/-- DstState without the offset field (10_state.md R27). -/
structure DstState where
  active : Bool
  pend : Bool
  target : Target
deriving DecidableEq, Repr

/-- A host command (60_exceptions.md R270, R271): LOAD with the configuration as driven on the ports, TICK with the 2-bit
rate-correction port as driven when it starts (10_state.md R44). -/
inductive Command where
  | load (c : Config)
  | tick (rcPort : RcPort)
deriving DecidableEq, Repr

/-- The state of the TCE. The fields to `findex` are the registers of R20; `cfg` is the configuration; `rc` and `out` are
the input and output of the TICK in progress; `loaded` and `cmds` are the model's own (logs 2, 5). -/
structure State where
  /-- CivilTime (R22) -/
  ct : CivilTime
  /-- R25 -/
  leapState : LeapState
  /-- R27 -/
  dst : DstState
  /-- R28 -/
  off : Offset
  /-- the cursor (R29) -/
  cur : CursorReg
  /-- R30, R31 -/
  bitIndex : PositionReg
  /-- sticky fault flag (R32) -/
  fault : Bool
  /-- R32 -/
  fcause : FaultCause
  /-- R32 -/
  findex : PositionReg
  /-- `C` as the last LOAD sampled it (R45) -/
  cfg : Config
  /-- a LOAD has been issued since power-on (60_exceptions.md R271) -/
  loaded : Bool
  /-- rate correction as sampled for the TICK in progress; None between TICKs (R44) -/
  rc : RcMode
  /-- the PulseSpec list of the latest command (R46) -/
  out : List PulseSpec
  /-- host commands still to come -/
  cmds : List Command
deriving DecidableEq, Repr

/-- A stop of the MODEL on an access the spec says never happens. The machine's own faults (60_exceptions.md R261) are
no stop: `raise` makes a next state with the sticky registers set. -/
inductive Fault where
  /-- Raised by `readDigit` where the cursor is past the active buffer's last index, which R66 says never happens. Safe. -/
  | bufferIndex
  /-- Raised by the fetch of a table index outside the table, which R64 says never happens. Safe. -/
  | tableIndex
deriving DecidableEq, Repr

/-- A command the spec refuses: it says nothing of such a run (00_scope.md R12). -/
inductive Refusal where
  /-- Raised by exec's arm of an instruction that has no meaning; there is none. Safe. -/
  | notModelled (mnemonic : String)
  /-- Raised by TICK before the first LOAD (60_exceptions.md R271, 70_reset_and_hazards.md R291). Safe. -/
  | tickBeforeLoad
  /-- Raised by TICK with 3 on the rate-correction port (93_implementation_defined.md U7). Safe. -/
  | rcPortReserved
  /-- Raised by LOAD where the start value breaks 70_reset_and_hazards.md R300. Safe. -/
  | startOutOfRange
  /-- Raised by LOAD where a code or the DST request breaks 70_reset_and_hazards.md R301. Safe. -/
  | configOutOfRange
  /-- Raised by a DST deactivation at hour 0 without a ripple (40_civil_time.md R110, U6). Safe. -/
  | dstHourBorrow
deriving DecidableEq, Repr

/-- The last index of the active buffer: 8 in WWV format, 21 in IRIG-B format (10_state.md R29). -/
def lastIndex (f : Format) : CursorReg := if f.irig then 21 else 8

/-- The registers after a LOAD of `c` (10_state.md R48), with the commands that are still to come. -/
def State.afterLoad (c : Config) (rest : List Command) : State where
  ct := c.start
  leapState := .normal
  dst := { active := c.dst.active0, pend := c.dst.req, target := c.dst.target }
  off := c.off
  cur := lastIndex c.fmt
  bitIndex := 0
  fault := false
  fcause := .none
  findex := 0
  cfg := c
  loaded := true
  rc := .none
  out := []
  cmds := rest

/-- The machine right after reset. The only reset is LOAD (R290), and a model starts in a state after a LOAD (R291); the
configuration loaded is the default one (log 3), and no command is waiting (log 2). -/
def State.reset : State := State.afterLoad defaultConfig []

end Sys2Proof.Machine
end

