-- ==== Sys2Proof/Machine/Flags.lean ====
section
/-! DEFINITION. The flags: the three pending flags (10_state.md R33, 40_civil_time.md R118 to R121), combinational and
recomputed from the stored targets, and the two matches they and the sub-machines share (R101, R108). -/

namespace Sys2Proof.Machine

/-- The (year, day, hour, minute) of a civil time. -/
def minuteOf (t : CivilTime) : Target := { year := t.year, day := t.day, hour := t.hour, minute := t.minute }

/-- `LeapMatch` (R101). -/
def leapMatch (s : State) : Bool := minuteOf s.ct == s.cfg.leap.target

/-- `LeapSecondPending` (R118). -/
def leapSecondPending (s : State) : Bool := (s.cfg.leap.ins || s.cfg.leap.del) && leapMatch s

/-- `LeapPolarity` (R119). -/
def leapPolarity (s : State) : Bool := s.cfg.leap.del && leapMatch s

/-- `PrevMinute` (R121): the minute before a target, with full borrow and the TCE's own year length. -/
def prevMinute (t : Target) : Target :=
  if 0 < t.minute.toNat then { t with minute := t.minute - 1 }
  else if 0 < t.hour.toNat then { t with hour := t.hour - 1, minute := 59 }
  else if 1 < t.day.toNat then { t with day := t.day - 1, hour := 23, minute := 59 }
  else
    let y : YearReg := BitVec.ofNat _ ((t.year.toNat + 99) % 100)
    { year := y, day := BitVec.ofNat _ (yearLength y), hour := 23, minute := 59 }

/-- `DstPendingFlag` (R120). -/
def dstPendingFlag (s : State) : Bool := s.dst.pend && minuteOf s.ct == prevMinute s.dst.target

/-- `DstFire` (R108), evaluated on the values the minute ripple left. -/
def dstFire (s : State) : Bool := s.dst.pend && minuteOf s.ct == s.dst.target

end Sys2Proof.Machine
end

