-- ==== Sys2Proof/Machine/Civil.lean ====
section
/-! DEFINITION. AdvanceSecond (40_civil_time.md R100 to R116): the leap-second machine, the minute, the DST machine, the
hour and day, and the year, in the order of the source's steps. -/

namespace Sys2Proof.Machine

/-- `OffsetInc` (R115): the offset one hour later. -/
def offsetInc (o : Offset) : Offset :=
  if o.sign then
    if o.hours = 0 then { o with sign := false, hours := if o.half then 0 else 1 }
    else { o with hours := o.hours - 1 }
  else
    if o.hours = 15 then { o with sign := true, hours := if o.half then 7 else 8 }
    else { o with hours := o.hours + 1 }

/-- `OffsetDec` (R116): the offset one hour earlier. -/
def offsetDec (o : Offset) : Offset :=
  if o.sign then
    if o.hours = 15 then { o with sign := false, hours := if o.half then 7 else 8 }
    else { o with hours := o.hours + 1 }
  else
    if o.hours = 0 then { o with sign := true, hours := if o.half then 0 else 1 }
    else { o with hours := o.hours - 1 }

/-- The denoted offset in half hours, `(-1)^sign * (2 hours + half)` (10_state.md R28, R117). -/
def offsetHalfHours (o : Offset) : Int :=
  let magnitude : Int := 2 * o.hours.toNat + (if o.half then 1 else 0)
  if o.sign then -magnitude else magnitude

/-- Step 1 (R102): arming the leap machine, on the time before this tick's advance. -/
def armLeap (s : State) : State :=
  if s.leapState = .normal ∧ leapMatch s = true then
    if s.cfg.leap.del = true ∧ s.ct.second = 58 then { s with leapState := .deleting }
    else if s.cfg.leap.ins = true ∧ s.ct.second = 59 then { s with leapState := .inserting }
    else s
  else s

/-- Step 2 (R103 to R105): one case split on the value `leapState` has after step 1. -/
def advanceSecondField (s : State) : State :=
  match s.leapState with
  | .normal => { s with ct := { s.ct with second := BitVec.ofNat _ ((s.ct.second.toNat + 1) % 60) } }
  | .deleting => { s with ct := { s.ct with second := 0 }, leapState := .normal }
  | .inserting => { s with ct := { s.ct with second := 60 }, leapState := .zeroAfterInsert }
  | .zeroAfterInsert => { s with ct := { s.ct with second := 0 }, leapState := .normal }

/-- Step 3, the minute with its ripple to the hour (R107); the hour may be 24 after it. -/
def rippleMinute (s : State) : State :=
  if 60 ≤ s.ct.minute.toNat + 1 then { s with ct := { s.ct with minute := 0, hour := s.ct.hour + 1 } }
  else { s with ct := { s.ct with minute := s.ct.minute + 1 } }

/-- Step 3, activation (R109) and the one-shot (R111). -/
def dstActivate (s : State) : State :=
  { s with ct := { s.ct with hour := s.ct.hour + 1 }, off := offsetInc s.off,
           dst := { s.dst with active := true, pend := false } }

/-- Step 3, deactivation (R110) and the one-shot (R111). -/
def dstDeactivate (s : State) : State :=
  { s with ct := { s.ct with hour := s.ct.hour - 1 }, off := offsetDec s.off,
           dst := { s.dst with active := false, pend := false } }

/-- Step 3, the DST test and its two arms (R108 to R111). A deactivation at hour 0 has no defined result and is refused
(R110, 93_implementation_defined.md U6). -/
def dstSwitch (s : State) : Except Refusal State :=
  if dstFire s then
    if s.dst.active then
      if s.ct.hour = 0 then .error .dstHourBorrow else .ok (dstDeactivate s)
    else .ok (dstActivate s)
  else .ok s

/-- Step 3 (R107 to R111) runs iff the second is 0 after step 2. -/
def advanceMinute (s : State) : Except Refusal State :=
  if s.ct.second = 0 then dstSwitch (rippleMinute s) else .ok s

/-- Step 4 (R112), in every tick. -/
def normalizeHour (s : State) : State :=
  if 24 ≤ s.ct.hour.toNat then { s with ct := { s.ct with hour := s.ct.hour - 24, day := s.ct.day + 1 } } else s

/-- The year after `y` (R114): it wraps from 99 to 0. -/
def nextYear (y : YearReg) : YearReg := BitVec.ofNat _ ((y.toNat + 1) % 100)

/-- Step 5 (R114), in every tick; the flag is `extra`. -/
def rollYear (s : State) : State × Bool :=
  if yearLength s.ct.year < s.ct.day.toNat then
    ({ s with ct := { s.ct with day := 1, year := nextYear s.ct.year } }, s.cfg.leapWarn)
  else (s, false)

/-- `AdvanceSecond` (R100): steps 1 to 5 in order, each on the state the step before it left. -/
def advanceSecond (s : State) : Except Refusal (State × Bool) :=
  match advanceMinute (advanceSecondField (armLeap s)) with
  | .error r => .error r
  | .ok t => .ok (rollYear (normalizeHour t))

end Sys2Proof.Machine
end

