-- ==== Sys2Proof/Machine/Encoder.lean ====
section
/-! DEFINITION. The BCD digit encoder and the parity generator (43_bcd_encoder.md R220 to R232, 44_parity.md R250 to
R253): pure functions of state and configuration; no buffer is stored (20_memory.md R62). -/

namespace Sys2Proof.Machine

/-- The decimal digit of weight `10^k` of `v` (R221). -/
def decimalDigit (v k : Nat) : Digit := BitVec.ofNat _ (v / 10 ^ k % 10)

/-- `WwvBuffer` (R220): year tens, day, hour, minute, year units. -/
def wwvBuffer (t : CivilTime) : List Digit :=
  [ decimalDigit t.year.toNat 1,
    decimalDigit t.day.toNat 2, decimalDigit t.day.toNat 1, decimalDigit t.day.toNat 0,
    decimalDigit t.hour.toNat 1, decimalDigit t.hour.toNat 0,
    decimalDigit t.minute.toNat 1, decimalDigit t.minute.toNat 0,
    decimalDigit t.year.toNat 0 ]

/-- `Sbs` (R225): straight binary seconds. -/
def sbs (t : CivilTime) : Nat := t.second.toNat + 60 * t.minute.toNat + 3600 * t.hour.toNat

/-- `bits[4 k + 3 : 4 k]` of a number as a digit (00_scope.md R7). -/
def hexDigit (v k : Nat) : Digit := BitVec.ofNat _ (v / 16 ^ k % 16)

/-- `Hex5` (R229): five hex digits, most significant first. -/
def hex5 (v : Nat) : List Digit := [hexDigit v 4, hexDigit v 3, hexDigit v 2, hexDigit v 1, hexDigit v 0]

/-- The number of 1 bits of a digit (00_scope.md R7). -/
def popcount4 (d : Digit) : Nat :=
  (d.getLsbD 0).toNat + (d.getLsbD 1).toNat + (d.getLsbD 2).toNat + (d.getLsbD 3).toNat

/-- Digits 10 and 11 of the IRIG-B buffer (R227). -/
def yearDigits (s : State) : List Digit :=
  if s.cfg.fmt.year then [decimalDigit s.ct.year.toNat 1, decimalDigit s.ct.year.toNat 0] else [0, 0]

/-- Digits 12 to 21 of the IRIG-B buffer (R226): day of year in four digits, hour, minute, second. -/
def dayTimeDigits (t : CivilTime) : List Digit :=
  [ decimalDigit t.day.toNat 3, decimalDigit t.day.toNat 2, decimalDigit t.day.toNat 1, decimalDigit t.day.toNat 0,
    decimalDigit t.hour.toNat 1, decimalDigit t.hour.toNat 0,
    decimalDigit t.minute.toNat 1, decimalDigit t.minute.toNat 0,
    decimalDigit t.second.toNat 1, decimalDigit t.second.toNat 0 ]

/-- The control-functions word with a given parity bit in bit 14 (the bit list of R228, bit 0 last). -/
def cfAssemble (s : State) (parityBit : Bool) : ControlWord :=
  BitVec.ofBool parityBit ++ s.cfg.tq ++ BitVec.ofBool s.off.half ++ s.off.hours ++ BitVec.ofBool s.off.sign ++
  BitVec.ofBool s.dst.active ++ BitVec.ofBool (dstPendingFlag s) ++ BitVec.ofBool (leapPolarity s) ++
  BitVec.ofBool (leapSecondPending s)

/-- `CfData` (R228): the word with bit 14 forced to 0; 0 without IEEE-1344. -/
def cfData (s : State) : ControlWord := if s.cfg.fmt.ieee then cfAssemble s false else 0

/-- The sum of the digits' population counts. -/
def popcountSum (ds : List Digit) : Nat := (ds.map popcount4).sum

/-- `Parity` (44_parity.md R250, R251): 1 iff the control-functions and time digits, without the parity bit itself, hold
an odd number of 1 bits; 0 without IEEE-1344. -/
def parity (s : State) : Bool :=
  s.cfg.fmt.ieee && popcountSum (hex5 (cfData s).toNat ++ yearDigits s ++ dayTimeDigits s.ct) % 2 == 1

/-- `CfWord` (R228): 0, parity included, without IEEE-1344. -/
def cfWord (s : State) : ControlWord := if s.cfg.fmt.ieee then cfAssemble s (parity s) else 0

/-- `IrigBuffer` (R224): straight binary seconds, control functions, year, day, time. -/
def irigBuffer (s : State) : List Digit :=
  hex5 (sbs s.ct) ++ hex5 (cfWord s).toNat ++ yearDigits s ++ dayTimeDigits s.ct

/-- The active buffer (20_memory.md R66). -/
def activeBuffer (s : State) : List Digit := if s.cfg.fmt.irig then irigBuffer s else wwvBuffer s.ct

/-- `BufRead(i)` (20_memory.md R66); none past the buffer's end, where the TCE never reads. -/
def bufRead (s : State) (i : Nat) : Option Digit := (activeBuffer s)[i]?

end Sys2Proof.Machine
end

