-- ==== Sys2Proof/Machine/Pulse.lean ====
section
/-! DEFINITION. Pulse kinds and pulse groups (42_pulse_ops.md R170 to R174, R194). -/

namespace Sys2Proof.Machine

/-- The three pulse kinds (R170). -/
inductive PulseKind where
  | zero
  | one
  | pi
deriving DecidableEq, Repr

/-- The data width `W(kind)` of WWV (R170). -/
def wwvWidth (c : Config) (kind : PulseKind) : Milliseconds :=
  match kind with
  | .zero => c.wwvW0
  | .one => c.wwvW1
  | .pi => c.wwvWp

/-- The mark width `M(kind)` of IRIG-B (R170). -/
def irigMark (kind : PulseKind) : Nat :=
  match kind with
  | .zero => 2
  | .one => 5
  | .pi => 8

/-- The adjustment in cycles: lengthened, shortened or nominal (R173, R174). -/
def rcCycles (rc : RcMode) : Int :=
  match rc with
  | .none => 0
  | .addCycle => 1
  | .removeCycle => -1

/-- `WwvAdj` (R173): one cycle of 100 Hz is 10 ms. -/
def wwvAdj (rc : RcMode) : Int := 10 * rcCycles rc

/-- An interval in the unsigned 10-bit format of 10_state.md R46. The spec states no value for a sum outside it, which
only custom WWV widths above 960 can give (R195): there it is a free value (log 9). -/
def intervalMs (v : Int) : Milliseconds :=
  let ms : Milliseconds := BitVec.ofInt _ v
  if (ms.toNat : Int) = v then ms else Config.openInterval v

/-- `WwvData(kind, tick, rc)` (R171). -/
def wwvData (c : Config) (kind : PulseKind) (tick : Bool) (rc : RcMode) : List PulseSpec :=
  let w := wwvWidth c kind
  let lead : List PulseSpec := if tick then [⟨5, 1000, .high⟩, ⟨25, 0, .off⟩] else [⟨30, 0, .off⟩]
  lead ++ [⟨w, 100, .low⟩, ⟨intervalMs (970 - w.toNat + wwvAdj rc), 0, .off⟩]

/-- The marker frequency (R172): the hour frequency at minute 0, otherwise the base sync frequency. -/
def markerFrequency (s : State) : Hertz := if s.ct.minute = 0 then s.cfg.fHour else s.cfg.fSync

/-- `WwvMarker(S, C, rc)` (R172). -/
def wwvMarker (s : State) : List PulseSpec :=
  [⟨800, markerFrequency s, .high⟩, ⟨intervalMs (200 + wwvAdj s.rc), 0, .off⟩]

/-- The adjustment of IRIG-B bit `b` (R174): one cycle of 1000 Hz at `IRIG_RC_BIT`, nothing elsewhere. -/
def irigAdj (c : Config) (b : PositionReg) (rc : RcMode) : Int := if b = c.irigRcBit then rcCycles rc else 0

/-- `IrigBit(kind, b, rc)` (R174). -/
def irigBit (c : Config) (kind : PulseKind) (b : PositionReg) (rc : RcMode) : List PulseSpec :=
  let m := irigMark kind
  [⟨BitVec.ofNat _ m, 1000, .high⟩, ⟨intervalMs (10 - m + irigAdj c b rc), 1000, .low⟩]

/-- The supplied list of a rate-correction mode (R194). -/
def extraGroupFor (g : ExtraGroups) (rc : RcMode) : List PulseSpec :=
  match rc with
  | .none => g.nominal
  | .addCycle => g.lengthened
  | .removeCycle => g.shortened

/-- The value of EXTRA_SECOND_IRIG: the supplied list, and otherwise the free value (R194, D15; log 8). -/
def extraSecondIrig (c : Config) (rc : RcMode) : List PulseSpec :=
  match c.extraSecondIrig with
  | some g => extraGroupFor g rc
  | none => Config.openExtraSecondIrig rc

/-- `ExtraSecond(C, rc)` (R194). -/
def extraSecond (c : Config) (rc : RcMode) : List PulseSpec :=
  if c.fmt.irig then extraSecondIrig c rc else wwvData c .zero true rc

/-- The sum of a list's durations in milliseconds (R195, R196). -/
def totalMs (ps : List PulseSpec) : Nat := (ps.map fun p => p.durationMs.toNat).sum

end Sys2Proof.Machine
end

