-- ==== Sys2Proof/Machine/Operands.lean ====
section
/-! DEFINITION. The argument forms (30_encoding.md R83), the bit test (42_pulse_ops.md R177), the admission table
(R178), and the register codes (10_state.md R26, 60_exceptions.md R261). -/

namespace Sys2Proof.Machine

/-- The kind form (R83): 0 Zero, 1 One, 2 PI; 3 to 15 name no pulse (R88). -/
def kindOfArg (arg : Argument) : Option PulseKind :=
  match arg.toNat with
  | 0 => some .zero
  | 1 => some .one
  | 2 => some .pi
  | _ => none

/-- A Boolean flag as a pulse kind (R177). -/
def flagKind (f : Bool) : PulseKind := if f then .one else .zero

/-- `BitTest(v, mask)` (R177): One iff `(v & mask) != 0`. -/
def bitTest (v : Digit) (mask : Argument) : PulseKind := flagKind (v &&& mask != 0)

/-- The admission table (R178): whether IRIG-B gives the operation a meaning. WWV admits all thirteen. -/
def admittedInIrig : Instr → Bool
  | .sendData _ => true
  | .sendDataNoTick _ => false
  | .sendCoefficientBit _ => true
  | .decrementSendPI => true
  | .decrementSendBit _ => true
  | .decrementSendZero => true
  | .noDecrementPI => true
  | .decrementNoTickPI => false
  | .minuteMarker => false
  | .leapWarningBit => false
  | .dut1Bit _ => false
  | .dst1Bit => false
  | .dst2Bit => false

/-- Whether the format admits the operation (30_encoding.md R89, R178). -/
def admitted (f : Format) (i : Instr) : Bool := !f.irig || admittedInIrig i

/-- Register code of a LeapState (10_state.md R26). -/
def leapStateCode : LeapState → LeapStateCode
  | .normal => 0
  | .deleting => 1
  | .inserting => 2
  | .zeroAfterInsert => 3

/-- Register code of a fault cause (60_exceptions.md R261). -/
def faultCauseCode : FaultCause → CauseCode
  | .none => 0
  | .opFault => 1
  | .argFault => 2
  | .formatFault => 3
  | .cursorUnderrun => 4

end Sys2Proof.Machine
end

