-- ==== Sys2Proof/Machine/Ops.lean ====
section
/-! DEFINITION. The operations the meanings share: emit, raise (taking a fault), the checks of `Exec` in their order, the
cursor, the buffer read, and Send (00_scope.md R8, 42_pulse_ops.md R175 to R179, 60_exceptions.md R262). Recovery from a
fault, the machine's only return from one, is LOAD in Machine/HostCommands.lean (60_exceptions.md R268). -/

namespace Sys2Proof.Machine

/-- What a step or a meaning answers. -/
abbrev Result := Host.Outcome State Fault Refusal

/-- `emit` of each descriptor of a group, in list order (00_scope.md R8). -/
def State.emitAll (s : State) (ps : List PulseSpec) : State := { s with out := s.out ++ ps }

/-- The table position of the entry in progress (10_state.md R30): the second in WWV, the bit index in IRIG-B. -/
def position (s : State) : PositionReg := if s.cfg.fmt.irig then s.bitIndex else s.ct.second.setWidth _

/-- The state a raised fault leaves (60_exceptions.md R262): the three sticky registers, and nothing else. -/
def State.raised (s : State) (cause : FaultCause) : State :=
  { s with fault := true, fcause := cause, findex := position s }

/-- `raise` (60_exceptions.md R262): a next state with the sticky registers set. The sequencer stops on it. -/
def raise (cause : FaultCause) (s : State) : Result := .next (s.raised cause)

/-- The format check of `Exec` (R179): FormatFault where the active format gives the operation no meaning. -/
def ifAdmitted (i : Instr) (s : State) (run : Result) : Result :=
  if admitted s.cfg.fmt i then run else raise .formatFault s

/-- The argument check of `Exec` (R179): ArgFault where the argument names no pulse. -/
def withKind (arg : Argument) (s : State) (run : PulseKind → Result) : Result :=
  match kindOfArg arg with
  | some kind => run kind
  | none => raise .argFault s

/-- The state with the cursor one digit left. -/
def State.cursorLeft (s : State) : State := { s with cur := s.cur - 1 }

/-- `Decrement(S)` (R176), then the rest of the operation. -/
def withDecrement (s : State) (run : State → Result) : Result :=
  if s.cur = 0 then raise .cursorUnderrun s else run s.cursorLeft

/-- `BufRead(S.cur)` (20_memory.md R65, R66), then the rest of the operation. -/
def withDigit (s : State) (run : Digit → Result) : Result :=
  match bufRead s s.cur.toNat with
  | some d => run d
  | none => .fault .bufferIndex

/-- The pulse group `Send` emits (R175); `tick` is unused in IRIG-B format. -/
def sendGroup (s : State) (kind : PulseKind) (tick : Bool) : List PulseSpec :=
  if s.cfg.fmt.irig then irigBit s.cfg kind s.bitIndex s.rc else wwvData s.cfg kind tick s.rc

/-- `Send(kind, tick, S, rc)` (R175). -/
def send (kind : PulseKind) (tick : Bool) (s : State) : Result := .next (s.emitAll (sendGroup s kind tick))

end Sys2Proof.Machine
end

