-- ==== Sys2Proof/Machine/Data.lean ====
section
/-! DEFINITION. The meanings of the data operations (42_pulse_ops.md R180 to R187). -/

namespace Sys2Proof.Machine

/-- R180. -/
def execSendData (kind : Argument) (s : State) : Result :=
  ifAdmitted (.sendData kind) s (withKind kind s fun k => send k true s)

/-- R181. -/
def execSendDataNoTick (kind : Argument) (s : State) : Result :=
  ifAdmitted (.sendDataNoTick kind) s (withKind kind s fun k => send k false s)

/-- R182: the digit at the cursor, which does not move. -/
def execSendCoefficientBit (mask : Argument) (s : State) : Result :=
  ifAdmitted (.sendCoefficientBit mask) s (withDigit s fun d => send (bitTest d mask) true s)

/-- R183. -/
def execDecrementSendPI (s : State) : Result :=
  ifAdmitted .decrementSendPI s (withDecrement s fun t => send .pi true t)

/-- R184: the digit at the new cursor. -/
def execDecrementSendBit (mask : Argument) (s : State) : Result :=
  ifAdmitted (.decrementSendBit mask) s
    (withDecrement s fun t => withDigit t fun d => send (bitTest d mask) true t)

/-- R185. -/
def execDecrementSendZero (s : State) : Result :=
  ifAdmitted .decrementSendZero s (withDecrement s fun t => send .zero true t)

/-- R186. -/
def execNoDecrementPI (s : State) : Result :=
  ifAdmitted .noDecrementPI s (send .pi true s)

/-- R187. -/
def execDecrementNoTickPI (s : State) : Result :=
  ifAdmitted .decrementNoTickPI s (withDecrement s fun t => send .pi false t)

end Sys2Proof.Machine
end

