-- ==== Sys2Proof/Machine/Marker.lean ====
section
/-! DEFINITION. The meanings of the minute marker and the flag operations (42_pulse_ops.md R188 to R193). -/

namespace Sys2Proof.Machine

/-- R188: the frequency depends on the minute, not on the table index. -/
def execMinuteMarker (s : State) : Result :=
  ifAdmitted .minuteMarker s (.next (s.emitAll (wwvMarker s)))

/-- R190: the configuration flag, not the leap request or the leap state. -/
def execLeapWarningBit (s : State) : Result :=
  ifAdmitted .leapWarningBit s (send (flagKind s.cfg.leapWarn) true s)

/-- R191. -/
def execDut1Bit (mask : Argument) (s : State) : Result :=
  ifAdmitted (.dut1Bit mask) s (send (bitTest s.cfg.dut1 mask) true s)

/-- R192. -/
def execDst1Bit (s : State) : Result :=
  ifAdmitted .dst1Bit s (send (flagKind s.dst.active) true s)

/-- R193. -/
def execDst2Bit (s : State) : Result :=
  ifAdmitted .dst2Bit s (send (flagKind s.dst.active) true s)

end Sys2Proof.Machine
end

