-- ==== Sys2Proof/Machine/Dispatch.lean ====
section
/-! DEFINITION. One table entry's operation: `Exec` (42_pulse_ops.md R179) on a decoded entry. -/

namespace Sys2Proof.Machine

def exec (i : Instr) (s : State) : Host.Outcome State Fault Refusal :=
  match i with
  | .sendData kind => Sys2Proof.Machine.execSendData kind s
  | .sendDataNoTick kind => Sys2Proof.Machine.execSendDataNoTick kind s
  | .sendCoefficientBit mask => Sys2Proof.Machine.execSendCoefficientBit mask s
  | .decrementSendPI => Sys2Proof.Machine.execDecrementSendPI s
  | .decrementSendBit mask => Sys2Proof.Machine.execDecrementSendBit mask s
  | .decrementSendZero => Sys2Proof.Machine.execDecrementSendZero s
  | .noDecrementPI => Sys2Proof.Machine.execNoDecrementPI s
  | .decrementNoTickPI => Sys2Proof.Machine.execDecrementNoTickPI s
  | .minuteMarker => Sys2Proof.Machine.execMinuteMarker s
  | .leapWarningBit => Sys2Proof.Machine.execLeapWarningBit s
  | .dut1Bit mask => Sys2Proof.Machine.execDut1Bit mask s
  | .dst1Bit => Sys2Proof.Machine.execDst1Bit s
  | .dst2Bit => Sys2Proof.Machine.execDst2Bit s

end Sys2Proof.Machine
end

