-- ==== Sys2Proof/Machine/Sequencer.lean ====
section
/-! DEFINITION. The per-second sequencer (41_format_tables.md R141 to R154): the fetch of an entry, its execution, one
WWV second and one IRIG-B second. -/

namespace Sys2Proof.Machine

/-- `Exec(e, S, C, rc)` (42_pulse_ops.md R179): OpFault where the byte names no operation, else the operation. -/
def execEntry (e : Byte) (s : State) : Result :=
  match decode e with
  | .ok i => exec i s
  | .error _ => raise .opFault s

/-- Fetch of one entry by `TblRead` (20_memory.md R63), then its execution. -/
def runEntry (t : TableSpace) (i : Nat) (s : State) : Result :=
  match tblRead s.cfg.tables t i with
  | some e => execEntry e s
  | none => .fault .tableIndex

/-- The state in which a WWV second's entry runs (R144): cursor back to 8 at second 0, bit index 0. -/
def wwvPrepare (s : State) : State :=
  { s with cur := if s.ct.second = 0 then 8 else s.cur, bitIndex := 0 }

/-- `EncodeWwv` (R144). -/
def encodeWwv (s : State) : Result :=
  runEntry .wwv s.ct.second.toNat (wwvPrepare s)

/-- The state with the bit index at `b`. -/
def State.atBit (s : State) (b : Nat) : State := { s with bitIndex := BitVec.ofNat _ b }

/-- The entry of bit position `b` (R145, R152): table of frame `b div 10 + 1` in the configured map, index `b mod 10`. -/
def runBit (b : Nat) (s : State) : Result :=
  match frameTable s.cfg.frames (b / 10 + 1) with
  | some t => runEntry t (b % 10) (s.atBit b)
  | none => .fault .tableIndex

/-- The loop of R152 over `n` bit positions from `b` on. A raised fault stops it with the bit index at the faulting
position; after the last position the bit index returns to 0. -/
def runBits : Nat → Nat → State → Result
  | 0, _, s => .next (s.atBit 0)
  | n + 1, b, s =>
    match runBit b s with
    | .next t => if t.fault then .next t else runBits n (b + 1) t
    | .fault f => .fault f
    | .refused r => .refused r

/-- The state in which an IRIG-B second's loop starts (R152): cursor at the last digit of the 22. -/
def irigPrepare (s : State) : State := { s with cur := 21 }

/-- `EncodeIrig` (R152): 100 bit positions in ascending order. -/
def encodeIrig (s : State) : Result := runBits 100 0 (irigPrepare s)

/-- `EncodeSecond` (R154). -/
def encodeSecond (s : State) : Result := if s.cfg.fmt.irig then encodeIrig s else encodeWwv s

end Sys2Proof.Machine
end

