-- ==== Sys2Proof/Machine/HostCommands.lean ====
section
/-! DEFINITION. The two host commands (60_exceptions.md R270, R271): LOAD, the only reset and the only way out of a fault
(R268), and TICK. -/

namespace Sys2Proof.Machine

/-- LOAD (R270): refused outside R300 and R301, else every register at its reset value (10_state.md R48), in any state,
the fault state included. `rest` is the commands still to come. -/
def loadCommand (c : Config) (rest : List Command) : Result :=
  if startLegal c.start = false then .refused .startOutOfRange
  else if codesLegal c = false then .refused .configOutOfRange
  else .next (State.afterLoad c rest)

/-- A TICK's list starts empty (00_scope.md R8) and its `rc` is the value sampled at its start (10_state.md R44). -/
def State.beginTick (s : State) (rc : RcMode) : State := { s with out := [], rc := rc }

/-- The TCE keeps no copy of `rc` between TICKs (10_state.md R44; log 6). -/
def State.endTick (s : State) : State := { s with rc := .none }

/-- The answer of a TICK whose encoding answered `r`. -/
def finishTick (r : Result) : Result :=
  match r with
  | .next s => .next s.endTick
  | .fault f => .fault f
  | .refused r => .refused r

/-- The state with the extra group of a leap-warned year rollover emitted (R271, 42_pulse_ops.md R194). -/
def emitExtra (extra : Bool) (s : State) : State :=
  if extra then s.emitAll (extraSecond s.cfg s.rc) else s

/-- The body of a TICK on a loaded TCE that is not stuck (R271): advance, the extra group if any, encode. -/
def runTick (s : State) : Result :=
  match advanceSecond s with
  | .error r => .refused r
  | .ok (t, extra) => encodeSecond (emitExtra extra t)

/-- TICK (R271). Refused before the first LOAD and with 3 on the port; while `fault = 1` it changes no register and
emits nothing (R264). -/
def tickCommand (rcPort : RcPort) (s : State) : Result :=
  if s.loaded = false then .refused .tickBeforeLoad
  else match rcOfCode rcPort with
    | none => .refused .rcPortReserved
    | some rc => if s.fault then .next { s with out := [] } else finishTick (runTick (s.beginTick rc))

/-- The host's next command, run to its end (00_scope.md R9). With no command waiting the TCE holds its registers and
does nothing (60_exceptions.md R276; log 2). -/
def runCommand (s : State) : Result :=
  match s.cmds with
  | [] => .next s
  | .load c :: rest => loadCommand c rest
  | .tick rcPort :: rest => tickCommand rcPort { s with cmds := rest }

/-- Where the next TICK's first entry is fetched: bit 0 in IRIG-B, and in WWV the second AdvanceSecond makes. -/
def nextFetch (s : State) : TableSpace × Nat :=
  if s.cfg.fmt.irig then (irigSpace s.cfg.frames.frame1, 0)
  else (.wwv, (advanceSecondField (armLeap s)).ct.second.toNat)

/-- The state with byte `e` where the next TICK fetches its first entry, a TICK (rc None) as the next command, and the
conditions of R271 for that TICK to run: loaded and not stuck (logs 2, 22). -/
def placeFetchByte (s : State) (e : Byte) : State :=
  { s with
    cfg := { s.cfg with tables := tblWrite s.cfg.tables (nextFetch s).1 (nextFetch s).2 e }
    cmds := .tick 0 :: s.cmds
    loaded := true
    fault := false
    fcause := .none
    findex := 0 }

end Sys2Proof.Machine
end

