-- ==== Sys2Proof/Machine/Step.lean ====
section
/-! DEFINITION. One step of the TCE: the host's next command (00_scope.md R9; log 1), and the host's placement of a word
where the next step fetches. -/

namespace Sys2Proof.Machine

/-- One step: the next host command, run to its end. -/
def step (s : State) : Host.Outcome State Fault Refusal := runCommand s

/-- The state whose very next step, a TICK, fetches the entry `w` first and runs it (log 22). An entry is one byte, so
`nbits` is 8. -/
def State.withFetchWord (s : State) (nbits w : Nat) : State :=
  if nbits = 8 then placeFetchByte s (BitVec.ofNat _ w) else s

end Sys2Proof.Machine
end

