-- ==== Sys2Proof/Safety.lean ====
section
/-! DEFINITION. What counts as a safe state and a safe step, in the terms the claims use: the ranges of 10_state.md R21 to
R32, the legal host commands of 70_reset_and_hazards.md R300, R301, and the canonical form of the tables. -/

namespace Sys2Proof.Machine

/-- The civil-time ranges of 10_state.md R24. -/
def civilInRange (t : CivilTime) : Prop :=
  t.year.toNat ≤ 99 ∧ 1 ≤ t.day.toNat ∧ t.day.toNat ≤ yearLength t.year ∧ t.hour.toNat ≤ 23 ∧
  t.minute.toNat ≤ 59 ∧ t.second.toNat ≤ 60

/-- Second 60 stands exactly with ZeroAfterInsert, and no other leap state than Normal is left by a step (R23, R25). -/
def leapConsistent (s : State) : Prop :=
  (s.leapState = .normal ∧ s.ct.second.toNat ≤ 59) ∨ (s.leapState = .zeroAfterInsert ∧ s.ct.second = 60)

/-- A configuration LOAD accepts (R300, R301). -/
def configLegal (c : Config) : Prop := startLegal c.start = true ∧ codesLegal c = true

/-- A command the spec gives a meaning on a loaded TCE: LOAD of an accepted configuration, TICK with `rc` 0 to 2. -/
def commandLegal (k : Command) : Prop :=
  match k with
  | .load c => configLegal c
  | .tick rcPort => rcPort.toNat < 3

/-- The tables a command carries are in canonical form. -/
def commandTablesCanonical (k : Command) : Prop :=
  match k with
  | .load c => Memory.wf c.tables = true
  | .tick _ => True

/-- The DST registers against the configuration they were loaded from: the target never changes, and while the switch is
pending neither does `active` (10_state.md R27, 40_civil_time.md R111). -/
def dstConsistent (s : State) : Prop :=
  s.dst.target = s.cfg.dst.target ∧
  (s.dst.pend = true → s.cfg.dst.req = true ∧ s.dst.active = s.cfg.dst.active0)

/-- The fault registers: all clear together, or a cause and the position of the entry that raised it (R31, R32). -/
def faultConsistent (s : State) : Prop :=
  (s.fault = false ∧ s.fcause = .none ∧ s.findex = 0 ∧ s.bitIndex = 0) ∨
  (s.fault = true ∧ s.fcause ≠ .none ∧ s.findex = position s ∧ s.bitIndex.toNat ≤ 99)

/-- The invariant of the TCE between host commands. -/
structure Inv (s : State) : Prop where
  loaded : s.loaded = true
  civil : civilInRange s.ct
  leap : leapConsistent s
  dst : dstConsistent s
  cursor : s.cur.toNat ≤ (lastIndex s.cfg.fmt).toNat
  faults : faultConsistent s
  config : configLegal s.cfg
  tables : Memory.wf s.cfg.tables = true
  rate : s.rc = .none
  pending : ∀ k ∈ s.cmds, commandTablesCanonical k

/-- A run of `n` steps is safe iff every step answers a next state with no fault raised. -/
def safeFor : Nat → State → Prop
  | 0, s => s.fault = false
  | n + 1, s => s.fault = false ∧ ∃ t, step s = .next t ∧ safeFor n t

end Sys2Proof.Machine
end

