-- ==== Sys2Proof/Certificates/Slice0/Obligations.lean ====
section
/-! DEFINITION. The statements for the provers, and the terms of the spec they are written in: what sending a pulse means,
the calendar of one second, the default code maps. The terms are written from the rules, not from the model's code. -/

namespace Sys2Proof.Spec

open Sys2Proof.Machine

/-! ## What a pulse group is -/

/-- The tick pulse and guard of a WWV data second, or the 30 ms hole of the no-tick variant (42_pulse_ops.md R171). -/
def leadOf (tick : Bool) : List PulseSpec :=
  if tick then [⟨5, 1000, .high⟩, ⟨25, 0, .off⟩] else [⟨30, 0, .off⟩]

/-- The WWV rate-correction amount in milliseconds (R173). -/
def wwvMs : RcMode → Int
  | .none => 0
  | .addCycle => 10
  | .removeCycle => -10

/-- The IRIG-B rate-correction amount in milliseconds (R174). -/
def irigMs : RcMode → Int
  | .none => 0
  | .addCycle => 1
  | .removeCycle => -1

/-- `t` is `s` with one WWV data second of width `w` appended to the output and nothing else changed. The quiet interval
is `970 - w` with the rate correction; for a custom width above 960 the spec states no value for it (R195, log 9). -/
def wwvSecondSent (s : State) (w : BitVec 10) (tick : Bool) (t : State) : Prop :=
  ∃ quiet : BitVec 10,
    t = { s with out := s.out ++ leadOf tick ++ [⟨w, 100, .low⟩, ⟨quiet, 0, .off⟩] } ∧
    (w.toNat ≤ 960 → (quiet.toNat : Int) = 970 - w.toNat + wwvMs s.rc)

/-- `t` is `s` with one IRIG-B bit of the given mark appended to the output and nothing else changed (R174). -/
def irigBitSent (s : State) (mark : BitVec 10) (t : State) : Prop :=
  ∃ space : BitVec 10,
    t = { s with out := s.out ++ [⟨mark, 1000, .high⟩, ⟨space, 1000, .low⟩] } ∧
    (space.toNat : Int) = 10 - mark.toNat + (if s.bitIndex = s.cfg.irigRcBit then irigMs s.rc else 0)

/-- One zero bit is sent, in the active format. -/
def zeroSent (s : State) (tick : Bool) (t : State) : Prop :=
  if s.cfg.fmt.irig then irigBitSent s 2 t else wwvSecondSent s s.cfg.wwvW0 tick t

/-- One one bit is sent, in the active format. -/
def oneSent (s : State) (tick : Bool) (t : State) : Prop :=
  if s.cfg.fmt.irig then irigBitSent s 5 t else wwvSecondSent s s.cfg.wwvW1 tick t

/-- One position indicator is sent, in the active format. -/
def piSent (s : State) (tick : Bool) (t : State) : Prop :=
  if s.cfg.fmt.irig then irigBitSent s 8 t else wwvSecondSent s s.cfg.wwvWp tick t

/-- A one bit if `v`, else a zero bit. -/
def bitSent (v : Bool) (s : State) (tick : Bool) (t : State) : Prop :=
  if v then oneSent s tick t else zeroSent s tick t

/-- `s` with the cursor one digit left. -/
def movedLeft (s : State) : State := { s with cur := s.cur - 1 }

/-- `s` with the three sticky fault registers written, and nothing else (60_exceptions.md R262). -/
def faulted (s : State) (cause : FaultCause) : State :=
  { s with
    fault := true
    fcause := cause
    findex := if s.cfg.fmt.irig then s.bitIndex else s.ct.second.setWidth 7 }

/-- The seven operations IRIG-B gives no meaning, by number (42_pulse_ops.md R178). -/
abbrev wwvOnly (op : BitVec 4) : Prop :=
  op = 1 ∨ op = 7 ∨ op = 8 ∨ op = 9 ∨ op = 10 ∨ op = 11 ∨ op = 12

/-- The four Decrement-class operations, by number (R176). -/
abbrev decrements (op : BitVec 4) : Prop := op = 3 ∨ op = 4 ∨ op = 5 ∨ op = 7

/-! ## The calendar of one second (40_civil_time.md R102 to R114) -/

/-- Hour and minute after the minute's increment and its ripple; the hour may be 24 (R107). -/
def rippledHour (t : CivilTime) : Nat := if t.minute.toNat = 59 then t.hour.toNat + 1 else t.hour.toNat

/-- See `rippledHour`. -/
def rippledMinute (t : CivilTime) : Nat := if t.minute.toNat = 59 then 0 else t.minute.toNat + 1

/-- The year rolls over: an hour of 24 or more on the last day of the year (R112, R114). -/
def yearRolls (t : CivilTime) (hour : Nat) : Bool :=
  decide (24 ≤ hour) && decide (t.day.toNat = yearLength t.year)

/-- Second 0 of an hour and minute of the day of `t`, an hour of 24 or more carried to the next day and year (R112 to
R114). -/
def settled (t : CivilTime) (hour minute : Nat) : CivilTime :=
  if hour < 24 then
    { t with hour := BitVec.ofNat 5 hour, minute := BitVec.ofNat 6 minute, second := 0 }
  else if t.day.toNat < yearLength t.year then
    { t with day := t.day + 1, hour := BitVec.ofNat 5 (hour - 24), minute := BitVec.ofNat 6 minute, second := 0 }
  else
    { year := BitVec.ofNat 7 (if t.year = 99 then 0 else t.year.toNat + 1), day := 1,
      hour := BitVec.ofNat 5 (hour - 24), minute := BitVec.ofNat 6 minute, second := 0 }

/-- The leap target is this minute (R101). -/
def atLeapTarget (s : State) : Prop :=
  s.ct.year = s.cfg.leap.target.year ∧ s.ct.day = s.cfg.leap.target.day ∧
  s.ct.hour = s.cfg.leap.target.hour ∧ s.ct.minute = s.cfg.leap.target.minute

/-- This tick inserts second 60 (R102, R105). -/
def insertsNow (s : State) : Prop :=
  s.leapState = .normal ∧ s.ct.second = 59 ∧ s.cfg.leap.ins = true ∧ atLeapTarget s

/-- This tick deletes second 59 (R102, R104). -/
def deletesNow (s : State) : Prop :=
  s.leapState = .normal ∧ s.ct.second = 58 ∧ s.cfg.leap.del = true ∧ atLeapTarget s

/-- This tick ends the minute (R103 to R105). -/
def wrapsNow (s : State) : Prop :=
  deletesNow s ∨ s.leapState = .zeroAfterInsert ∨ (s.leapState = .normal ∧ s.ct.second = 59 ∧ ¬ insertsNow s)

/-- The DST switch is pending and the rippled minute is its target (R108). -/
def dstDue (s : State) : Prop :=
  s.dst.pend = true ∧ s.ct.year = s.dst.target.year ∧ s.ct.day = s.dst.target.day ∧
  rippledHour s.ct = s.dst.target.hour.toNat ∧ rippledMinute s.ct = s.dst.target.minute.toNat

/-- The state a minute's end leaves, given the hour it settles at and the DST and offset registers (R107 to R114). -/
def atNewMinute (s : State) (hour : Nat) (dst : DstState) (off : Offset) : State :=
  { s with ct := settled s.ct hour (rippledMinute s.ct), leapState := .normal, dst := dst, off := off }

/-! ## The default code maps -/

/-- What an IRIG-B bit position or a WWV second sends (41_format_tables.md R142, R153). -/
inductive Source where
  | zero
  | pi
  | piNoTick
  | marker
  | digit (index : Nat) (mask : BitVec 4)
  | dst
  | leapWarn
  | dut1 (mask : BitVec 4)
deriving DecidableEq, Repr

/-- Bits of weight 1, 2, 4, 8 of a buffer digit. -/
def nibble (index : Nat) : List Source := [.digit index 1, .digit index 2, .digit index 4, .digit index 8]

/-- The code map of an IRIG-B second with the default tables, bit 0 first (R153). -/
def irigMap : List Source :=
  ([.pi] ++ nibble 21 ++ [.zero] ++ [.digit 20 1, .digit 20 2, .digit 20 4] ++ [.pi]) ++
  (nibble 19 ++ [.zero] ++ nibble 18 ++ [.pi]) ++
  (nibble 17 ++ [.zero] ++ nibble 16 ++ [.pi]) ++
  (nibble 15 ++ [.zero] ++ nibble 14 ++ [.pi]) ++
  (nibble 13 ++ [.zero] ++ nibble 12 ++ [.pi]) ++
  (nibble 11 ++ [.zero] ++ nibble 10 ++ [.pi]) ++
  (nibble 9 ++ nibble 8 ++ [.digit 7 1] ++ [.pi]) ++
  ([.digit 7 2, .digit 7 4, .digit 7 8] ++ nibble 6 ++ [.digit 5 1, .digit 5 2] ++ [.pi]) ++
  (nibble 4 ++ nibble 3 ++ [.digit 2 1] ++ [.pi]) ++
  ([.digit 2 2, .digit 2 4, .digit 2 8] ++ nibble 1 ++ [.digit 0 1] ++ [.zero] ++ [.pi])

/-- The code map of a WWV minute with the default table, second 0 first, the inserted second last (R142, R223). -/
def wwvMap : List Source :=
  ([.marker, .zero, .dst, .leapWarn] ++ nibble 8 ++ [.zero] ++ [.pi]) ++
  (nibble 7 ++ [.zero] ++ nibble 6 ++ [.pi]) ++
  (nibble 5 ++ [.zero] ++ nibble 4 ++ [.piNoTick]) ++
  (nibble 3 ++ [.zero] ++ nibble 2 ++ [.pi]) ++
  (nibble 1 ++ [.zero] ++ [.zero, .zero, .zero, .zero] ++ [.pi]) ++
  ([.dut1 8] ++ nibble 0 ++ [.dst] ++ [.dut1 1, .dut1 2, .dut1 4] ++ [.piNoTick]) ++
  [.zero]

/-- The digit of a buffer, 0 past its end. -/
def digitAt (ds : List Digit) (i : Nat) : Digit := ds[i]?.getD 0

/-- The number of 1 bits of a list of digits, bit by bit. -/
def onesIn (ds : List Digit) : Nat :=
  (ds.flatMap fun d => [d.getLsbD 0, d.getLsbD 1, d.getLsbD 2, d.getLsbD 3]).countP id

/-- The mark a source sends in IRIG-B: 8 for a position indicator, 5 for a one, 2 for a zero (R170). -/
def markOf (ds : List Digit) : Source → Nat
  | .pi => 8
  | .digit i mask => if digitAt ds i &&& mask ≠ 0 then 5 else 2
  | _ => 2

/-- The two descriptors of bit position `b` of an IRIG-B second (R174). -/
def irigPair (c : Config) (rc : RcMode) (ds : List Digit) (b : Nat) (src : Source) : List PulseSpec :=
  let extraMs : Int := if b = c.irigRcBit.toNat then irigMs rc else 0
  [⟨BitVec.ofNat 10 (markOf ds src), 1000, .high⟩,
   ⟨BitVec.ofNat 10 (10 - markOf ds src + extraMs).toNat, 1000, .low⟩]

/-- The 200 descriptors of an IRIG-B second with the default tables (R152, R153). -/
def irigSecond (c : Config) (rc : RcMode) (ds : List Digit) : List PulseSpec :=
  irigMap.zipIdx.flatMap fun p => irigPair c rc ds p.2 p.1

/-- The WWV cursor after each second of a full minute with the default table (95_test_vectors.md W13): it moves left at
seconds 8, 14, 19, 24, 29, 34, 39 and 44 (41_format_tables.md R143). -/
def wwvCursorAfter (second : Nat) : Nat :=
  8 - ([8, 14, 19, 24, 29, 34, 39, 44].filter (· ≤ second)).length

/-- What a WWV source sends, as a relation between the states around the entry (R142, R170 to R172). -/
def wwvSent (s : State) (src : Source) (t : State) : Prop :=
  match src with
  | .zero => zeroSent s true t
  | .pi => piSent s true t
  | .piNoTick => piSent s false t
  | .marker => ∃ quiet : BitVec 10, (quiet.toNat : Int) = 200 + wwvMs s.rc ∧
      t = { s with out := s.out ++ [⟨800, if s.ct.minute = 0 then s.cfg.fHour else s.cfg.fSync, .high⟩, ⟨quiet, 0, .off⟩] }
  | .digit i mask => bitSent (decide (digitAt (wwvBuffer s.ct) i &&& mask ≠ 0)) s true t
  | .dst => bitSent s.dst.active s true t
  | .leapWarn => bitSent s.cfg.leapWarn s true t
  | .dut1 mask => bitSent (decide (s.cfg.dut1 &&& mask ≠ 0)) s true t

/-- The next command is a TICK with a legal `rc` code, on a TCE that is loaded and not stuck, and `u` and `extra` are what
AdvanceSecond answers in it (60_exceptions.md R271). -/
def tickAdvances (s : State) (rc : RcMode) (rest : List Command) (u : State) (extra : Bool) : Prop :=
  s.loaded = true ∧ s.fault = false ∧
  (∃ code : BitVec 2, s.cmds = .tick code :: rest ∧ rcOfCode code = some rc) ∧
  advanceSecond { s with cmds := rest, out := [], rc := rc } = .ok (u, extra)

/-- The extra group of this TICK: that of a leap-warned year rollover, or nothing (R271, 42_pulse_ops.md R194). -/
def extraGroup (u : State) (extra : Bool) : List PulseSpec := if extra then extraSecond u.cfg u.rc else []

/-- The registers of 10_state.md R20 and the configuration are the same. -/
def sameRegisters (s t : State) : Prop :=
  t.ct = s.ct ∧ t.leapState = s.leapState ∧ t.dst = s.dst ∧ t.off = s.off ∧ t.cur = s.cur ∧
  t.bitIndex = s.bitIndex ∧ t.fault = s.fault ∧ t.fcause = s.fcause ∧ t.findex = s.findex ∧ t.cfg = s.cfg

end Sys2Proof.Spec

open Sys2Proof Sys2Proof.Machine Sys2Proof.Spec

/-! ## Encoding -/

/-- Decoding an encoded entry gives it back, and encoding a decoded byte gives the byte back, but for the argument bits
an operation of the ignored form does not read, which assemble as 0 (30_encoding.md R80 to R83, R91). -/
def Obligations.DecodeEncodeAgree : Prop :=
  (∀ i : Instr, decode (encode i) = .ok i) ∧
  (∀ (b : Byte) (i : Instr), decode b = .ok i →
    opField (encode i) = opField b ∧ argField (encode i) = if argIgnored i then 0 else argField b)

/-- Decoding rejects exactly operations 13, 14 and 15, by name (30_encoding.md R81, R87). -/
def Obligations.ReservedOperationsRejected : Prop :=
  ∀ b : Byte, (13 ≤ b.toNat / 16 → decode b = .error (.illegalOperation (opField b))) ∧
    (b.toNat / 16 < 13 → ∃ i, decode b = .ok i ∧ (opcode i).toNat = b.toNat / 16)

/-- The worked encodings of 30_encoding.md R92: each entry assembles to its byte, and the byte decodes to the entry. -/
def Obligations.WorkedEncodingsDecode : Prop :=
  ∀ p ∈ ([(.sendData 2, 0x02), (.sendCoefficientBit 8, 0x28), (.decrementSendBit 1, 0x41), (.dut1Bit 8, 0xA8),
      (.minuteMarker, 0x80), (.dst2Bit, 0xC0)] : List (Instr × Byte)),
    encode p.1 = p.2 ∧ decode p.2 = .ok p.1

/-! ## A step runs the decoded entry -/

/-- In WWV format a TICK is exactly: advance, emit the extra group if any, reset the cursor at second 0, fetch the entry
of the new second, decode it and execute it; a byte of operation 13, 14 or 15 raises OpFault there (41_format_tables.md
R144, 30_encoding.md R87, 60_exceptions.md R271). That the rate correction is None after it is the model's choice
(log 6). -/
def Obligations.TickRunsTheDecodedWwvEntry : Prop :=
  ∀ (s u : State) (rc : RcMode) (rest : List Command) (extra : Bool) (e : Byte),
    s.cfg.fmt.irig = false → tickAdvances s rc rest u extra →
    tblRead u.cfg.tables .wwv u.ct.second.toNat = some e →
    let x := { u with out := u.out ++ extraGroup u extra, cur := if u.ct.second = 0 then 8 else u.cur, bitIndex := 0 }
    (∀ i : Instr, decode e = .ok i → step s = finishTick (exec i x)) ∧
    (13 ≤ e.toNat / 16 → step s = .next { faulted x .opFault with rc := .none })

/-- In IRIG-B format a TICK is exactly: advance, emit the extra group if any, set the cursor to 21, and run the loop over
the 100 bit positions; one turn of the loop fetches the entry of the position by frame and index, decodes it, executes
it, and stops where it raised a fault; a byte of operation 13, 14 or 15 raises OpFault and stops it
(41_format_tables.md R145, R146, R152, 30_encoding.md R87). -/
def Obligations.TickRunsTheDecodedIrigEntries : Prop :=
  (∀ (s u : State) (rc : RcMode) (rest : List Command) (extra : Bool),
    u.cfg.fmt.irig = true → tickAdvances s rc rest u extra →
    step s = finishTick (runBits 100 0 { u with out := u.out ++ extraGroup u extra, cur := 21 })) ∧
  (∀ (s : State) (n b : Nat) (tb : TableSpace) (e : Byte),
    frameTable s.cfg.frames (b / 10 + 1) = some tb → tblRead s.cfg.tables tb (b % 10) = some e →
    let x := { s with bitIndex := BitVec.ofNat 7 b }
    (∀ i : Instr, decode e = .ok i → runBits (n + 1) b s = match exec i x with
      | .next t => if t.fault then .next t else runBits n (b + 1) t
      | .fault f => .fault f
      | .refused r => .refused r) ∧
    (13 ≤ e.toNat / 16 → runBits (n + 1) b s = .next (faulted x .opFault))) ∧
  (∀ (s : State) (b : Nat), runBits 0 b s = .next { s with bitIndex := 0 })

/-- With no command waiting a step leaves the state as it is: between commands the TCE holds its registers and does
nothing (60_exceptions.md R276); that the commands are a list, which may be empty, is the model's choice (log 2). -/
def Obligations.IdleStepKeepsTheState : Prop :=
  ∀ s : State, s.cmds = [] → step s = .next s

/-! ## The tables and the codes -/

/-- A table has an entry exactly at each index of its range, 0 to 60 for WWV_TABLE and 0 to 9 for the five others
(20_memory.md R60, R63, R64). -/
def Obligations.TablesReadInsideTheirRange : Prop :=
  ∀ (m : Memory) (tb : TableSpace) (n : Nat),
    (∃ e, tblRead m tb n = some e) ↔ n < (if tb = .wwv then 61 else 10)

/-- An entry the host sets in a configuration reads back, every other entry of every table reads as before, and the
canonical form of the memory, which is the model's own (log 7), is kept. -/
def Obligations.TableEntrySetReadsBack : Prop :=
  ∀ (m : Memory) (tb : TableSpace) (n : Nat) (e : Byte),
    Memory.wf m = true → n < (if tb = .wwv then 61 else 10) →
    tblRead (tblWrite m tb n e) tb n = some e ∧ Memory.wf (tblWrite m tb n e) = true ∧
    ∀ (tb' : TableSpace) (n' : Nat), (tb' ≠ tb ∨ n' ≠ n) → tblRead (tblWrite m tb n e) tb' n' = tblRead m tb' n'

/-- The frame numbers 1 to 10 read the configured frame-to-table map, which by default sends frame 1 to IRIG_T1, 2 to 6 to
IRIG_T2, 7 and 9 to IRIG_T3, 8 to IRIG_T4 and 10 to IRIG_T5 (41_format_tables.md R146, 92_eei_decisions.md D8). -/
def Obligations.FrameNumbersReadTheFrameMap : Prop :=
  (∀ m : FrameMap, (List.range 12).map (frameTable m) =
    [none, some (irigSpace m.frame1), some (irigSpace m.frame2), some (irigSpace m.frame3), some (irigSpace m.frame4),
     some (irigSpace m.frame5), some (irigSpace m.frame6), some (irigSpace m.frame7), some (irigSpace m.frame8),
     some (irigSpace m.frame9), some (irigSpace m.frame10), none]) ∧
  (List.range 12).map (frameTable defaultConfig.frames) =
    [none, some .irigT1, some .irigT2, some .irigT2, some .irigT2, some .irigT2, some .irigT2, some .irigT3,
     some .irigT4, some .irigT3, some .irigT5, none]

/-- The codes of the rate-correction port: None 0, AddCycle 1, RemoveCycle 2; 3 is no mode (10_state.md R44). -/
def Obligations.RateCorrectionPortCodes : Prop :=
  rcOfCode 0 = some .none ∧ rcOfCode 1 = some .addCycle ∧ rcOfCode 2 = some .removeCycle ∧ rcOfCode 3 = none

/-- The codes of the status registers and of the output (10_state.md R26, R46, 60_exceptions.md R261): LeapState, fault
cause, amplitude level. -/
def Obligations.StatusAndOutputCodes : Prop :=
  (leapStateCode .normal = 0 ∧ leapStateCode .deleting = 1 ∧ leapStateCode .inserting = 2 ∧
    leapStateCode .zeroAfterInsert = 3) ∧
  (faultCauseCode .none = 0 ∧ faultCauseCode .opFault = 1 ∧ faultCauseCode .argFault = 2 ∧
    faultCauseCode .formatFault = 3 ∧ faultCauseCode .cursorUnderrun = 4) ∧
  (levelCode .off = 0 ∧ levelCode .low = 1 ∧ levelCode .high = 2)

/-! ## The thirteen operations: results, with their whole frame -/

/-- SendData (42_pulse_ops.md R180): it sends the pulse its kind names, with tick, in both formats and from every state;
kinds 3 to 15 raise ArgFault; it is operation 0. -/
def Obligations.SendDataSendsItsKind : Prop :=
  ∀ s : State,
    (∃ t, exec (.sendData 0) s = .next t ∧ zeroSent s true t) ∧
    (∃ t, exec (.sendData 1) s = .next t ∧ oneSent s true t) ∧
    (∃ t, exec (.sendData 2) s = .next t ∧ piSent s true t) ∧
    (∀ kind : BitVec 4, 3 ≤ kind.toNat → exec (.sendData kind) s = .next (faulted s .argFault)) ∧
    (∀ kind : BitVec 4, encode (.sendData kind) = 0#4 ++ kind)

/-- SendDataNoTick (42_pulse_ops.md R181): in WWV format it sends the pulse its kind names, without tick, and kinds 3 to
15 raise ArgFault; in IRIG-B format it raises FormatFault; it is operation 1. -/
def Obligations.SendDataNoTickSendsItsKind : Prop :=
  ∀ s : State,
    (s.cfg.fmt.irig = false →
      (∃ t, exec (.sendDataNoTick 0) s = .next t ∧ zeroSent s false t) ∧
      (∃ t, exec (.sendDataNoTick 1) s = .next t ∧ oneSent s false t) ∧
      (∃ t, exec (.sendDataNoTick 2) s = .next t ∧ piSent s false t) ∧
      ∀ kind : BitVec 4, 3 ≤ kind.toNat → exec (.sendDataNoTick kind) s = .next (faulted s .argFault)) ∧
    (s.cfg.fmt.irig = true →
      ∀ kind : BitVec 4, exec (.sendDataNoTick kind) s = .next (faulted s .formatFault)) ∧
    (∀ kind : BitVec 4, encode (.sendDataNoTick kind) = 1#4 ++ kind)

/-- SendCoefficientBit (42_pulse_ops.md R182, R177): it tests its mask against the digit at the cursor and does not move
the cursor, in both formats, for every cursor inside the active buffer; it raises nothing; it is operation 2. -/
def Obligations.SendCoefficientBitTestsTheCursorDigit : Prop :=
  ∀ (s : State) (mask : BitVec 4),
    (s.cur.toNat ≤ (if s.cfg.fmt.irig then 21 else 8) →
      ∃ (d : Digit) (t : State),
        (if s.cfg.fmt.irig then irigBuffer s else wwvBuffer s.ct)[s.cur.toNat]? = some d ∧
        exec (.sendCoefficientBit mask) s = .next t ∧ bitSent (decide (d &&& mask ≠ 0)) s true t) ∧
    encode (.sendCoefficientBit mask) = 2#4 ++ mask

/-- DecrementSendBit (42_pulse_ops.md R184): it moves the cursor left first and tests the digit at the new cursor, in both
formats; at cursor 0 it raises CursorUnderrun; it is operation 4. -/
def Obligations.DecrementSendBitTestsTheNewDigit : Prop :=
  ∀ (s : State) (mask : BitVec 4),
    (s.cur ≠ 0 → s.cur.toNat ≤ (if s.cfg.fmt.irig then 21 else 8) →
      ∃ (d : Digit) (t : State),
        (if s.cfg.fmt.irig then irigBuffer s else wwvBuffer s.ct)[s.cur.toNat - 1]? = some d ∧
        exec (.decrementSendBit mask) s = .next t ∧ bitSent (decide (d &&& mask ≠ 0)) (movedLeft s) true t) ∧
    (s.cur = 0 → exec (.decrementSendBit mask) s = .next (faulted s .cursorUnderrun)) ∧
    encode (.decrementSendBit mask) = 4#4 ++ mask

/-- DecrementSendPI, DecrementSendZero (42_pulse_ops.md R183, R185): they move the cursor to the old one minus 1 and send
their pulse, in both formats; at cursor 0 they raise CursorUnderrun; they are operations 3 and 5, and ignore their
argument. -/
def Obligations.DecrementOperationsMoveAndSend : Prop :=
  ∀ s : State,
    (s.cur ≠ 0 →
      (movedLeft s).cur.toNat + 1 = s.cur.toNat ∧
      (∃ t, exec .decrementSendPI s = .next t ∧ piSent (movedLeft s) true t) ∧
      ∃ t, exec .decrementSendZero s = .next t ∧ zeroSent (movedLeft s) true t) ∧
    (s.cur = 0 →
      exec .decrementSendPI s = .next (faulted s .cursorUnderrun) ∧
      exec .decrementSendZero s = .next (faulted s .cursorUnderrun)) ∧
    ∀ arg : BitVec 4, decode (3#4 ++ arg) = .ok .decrementSendPI ∧ decode (5#4 ++ arg) = .ok .decrementSendZero

/-- DecrementNoTickPI (42_pulse_ops.md R187): in WWV format it moves the cursor left and sends a position indicator
without tick, and at cursor 0 raises CursorUnderrun; in IRIG-B format it raises FormatFault, the cursor at 0 included;
it is operation 7, and ignores its argument. -/
def Obligations.DecrementNoTickPIMovesAndSends : Prop :=
  ∀ s : State,
    (s.cfg.fmt.irig = false →
      (s.cur ≠ 0 → ∃ t, exec .decrementNoTickPI s = .next t ∧ piSent (movedLeft s) false t) ∧
      (s.cur = 0 → exec .decrementNoTickPI s = .next (faulted s .cursorUnderrun))) ∧
    (s.cfg.fmt.irig = true → exec .decrementNoTickPI s = .next (faulted s .formatFault)) ∧
    ∀ arg : BitVec 4, decode (7#4 ++ arg) = .ok .decrementNoTickPI

/-- NoDecrementPI (42_pulse_ops.md R186): it sends a position indicator and leaves the cursor, in both formats and from
every state; it does what SendData pi does; it is operation 6, and ignores its argument. -/
def Obligations.NoDecrementPISendsAMarker : Prop :=
  (∀ s : State, ∃ t, exec .noDecrementPI s = .next t ∧ piSent s true t) ∧
  (∀ s : State, exec .noDecrementPI s = exec (.sendData 2) s) ∧
  ∀ arg : BitVec 4, decode (6#4 ++ arg) = .ok .noDecrementPI

/-- MinuteMarker (42_pulse_ops.md R172, R188): in WWV format it sends 800 ms at the hour frequency in minute 0, else at the
base sync frequency, and then quiet to the second's end with the rate correction; in IRIG-B format it raises
FormatFault; it is operation 8, and ignores its argument. -/
def Obligations.MinuteMarkerSendsTheMarker : Prop :=
  ∀ s : State,
    (s.cfg.fmt.irig = false → ∃ t, exec .minuteMarker s = .next t ∧ wwvSent s .marker t) ∧
    (s.cfg.fmt.irig = true → exec .minuteMarker s = .next (faulted s .formatFault)) ∧
    ∀ arg : BitVec 4, decode (8#4 ++ arg) = .ok .minuteMarker

/-- The flag operations (42_pulse_ops.md R190 to R193): in WWV format LeapWarningBit sends the configuration flag, Dut1Bit
a masked bit of DUT1, Dst1Bit and Dst2Bit the DST state, with tick; in IRIG-B format they raise FormatFault; they are
operations 9, 10, 11 and 12, and only Dut1Bit reads its argument. -/
def Obligations.FlagOperationsSendTheirFlag : Prop :=
  ∀ (s : State) (mask : BitVec 4),
    (s.cfg.fmt.irig = false →
      (∃ t, exec .leapWarningBit s = .next t ∧ bitSent s.cfg.leapWarn s true t) ∧
      (∃ t, exec (.dut1Bit mask) s = .next t ∧ bitSent (decide (s.cfg.dut1 &&& mask ≠ 0)) s true t) ∧
      (∃ t, exec .dst1Bit s = .next t ∧ bitSent s.dst.active s true t) ∧
      ∃ t, exec .dst2Bit s = .next t ∧ bitSent s.dst.active s true t) ∧
    (s.cfg.fmt.irig = true →
      ∀ i ∈ [.leapWarningBit, .dut1Bit mask, .dst1Bit, .dst2Bit], exec i s = .next (faulted s .formatFault)) ∧
    decode (9#4 ++ mask) = .ok .leapWarningBit ∧ decode (10#4 ++ mask) = .ok (.dut1Bit mask) ∧
    decode (11#4 ++ mask) = .ok .dst1Bit ∧ decode (12#4 ++ mask) = .ok .dst2Bit

/-- Whatever byte an entry holds, the checks are made in the order OpFault, FormatFault, ArgFault, CursorUnderrun; the
first that applies is the one reported, and it writes the three sticky registers and nothing else; where none applies
and the cursor is inside the active buffer, the entry runs the operation its byte names, answers a next state with the
fault registers as they were, has moved the cursor one left exactly where the operation is of the Decrement class, and
has then emitted exactly one pulse group, of one pulse or of the minute marker. An entry that raises stops the loop over
bit positions (42_pulse_ops.md R176, R179, 30_encoding.md R87 to R89, 60_exceptions.md R262, R265). -/
def Obligations.EntryChecksInOrder : Prop :=
  (∀ (s : State) (e : Byte),
    let op := opField e
    if 13 ≤ op.toNat then execEntry e s = .next (faulted s .opFault)
    else if s.cfg.fmt.irig = true ∧ wwvOnly op then execEntry e s = .next (faulted s .formatFault)
    else if op.toNat ≤ 1 ∧ 3 ≤ (argField e).toNat then execEntry e s = .next (faulted s .argFault)
    else if decrements op ∧ s.cur = 0 then execEntry e s = .next (faulted s .cursorUnderrun)
    else s.cur.toNat ≤ (if s.cfg.fmt.irig then 21 else 8) →
      ∃ (i : Instr) (t : State), decode e = .ok i ∧ execEntry e s = exec i s ∧ exec i s = .next t ∧
        t.fault = s.fault ∧ t.fcause = s.fcause ∧ t.findex = s.findex ∧
        t.cur = (if decrements op then s.cur - 1 else s.cur) ∧
        let x := if decrements op then movedLeft s else s
        let tick : Bool := decide (op ≠ 1 ∧ op ≠ 7)
        zeroSent x tick t ∨ oneSent x tick t ∨ piSent x tick t ∨ (op = 8 ∧ wwvSent x .marker t)) ∧
  (∀ (n b : Nat) (s t : State), runBit b s = .next t → t.fault = true → runBits (n + 1) b s = .next t)

/-- What no operation does (42_pulse_ops.md R199): an operation that answers a next state leaves the civil time, the leap
state, the DST and offset registers, the bit index, the configuration and every table entry as they were; it moves the
cursor at most one left, and only if it is of the Decrement class; it only appends to the output. -/
def Obligations.OperationsWriteOnlyCursorAndFault : Prop :=
  ∀ (i : Instr) (s t : State), exec i s = .next t →
    t.ct = s.ct ∧ t.leapState = s.leapState ∧ t.dst = s.dst ∧ t.off = s.off ∧ t.bitIndex = s.bitIndex ∧
    t.cfg = s.cfg ∧ t.loaded = s.loaded ∧ t.rc = s.rc ∧ t.cmds = s.cmds ∧
    (∀ (tb : TableSpace) (n : Nat), tblRead t.cfg.tables tb n = tblRead s.cfg.tables tb n) ∧
    (t.cur = s.cur ∨ (decrements (opcode i) ∧ t.cur.toNat + 1 = s.cur.toNat)) ∧
    (∃ ps, t.out = s.out ++ ps) ∧
    (t.fault = s.fault ∧ t.fcause = s.fcause ∧ t.findex = s.findex ∨
      (t.fault = true ∧ t.fcause ≠ .none ∧ t.out = s.out ∧ t.cur = s.cur))

/-- The descriptors one WWV entry that raises nothing emits sum to 1000 ms with the rate correction, for any widths up to 960
(42_pulse_ops.md R195). -/
def Obligations.WwvEntryDurationSum : Prop :=
  ∀ (i : Instr) (s t : State), s.cfg.fmt.irig = false → s.fault = false →
    s.cfg.wwvW0.toNat ≤ 960 → s.cfg.wwvW1.toNat ≤ 960 → s.cfg.wwvWp.toNat ≤ 960 →
    exec i s = .next t → t.fault = false →
    (totalMs t.out : Int) = totalMs s.out + 1000 + wwvMs s.rc

/-- How many descriptors an entry that raises nothing emits: in WWV 2 for the marker, 3 for the no-tick operations, 4 for the rest; in IRIG-B
2 (42_pulse_ops.md R198). -/
def Obligations.EntryDescriptorCount : Prop :=
  ∀ (i : Instr) (s t : State), s.fault = false → exec i s = .next t → t.fault = false →
    t.out.length = s.out.length +
      (if s.cfg.fmt.irig then 2
       else if i = .minuteMarker then 2
       else if opcode i = 1 ∨ opcode i = 7 then 3 else 4)

/-- The extra group of a leap-warned year rollover: in WWV format one data-zero second with tick, with the rate
correction, for a zero width up to 960 (42_pulse_ops.md R194); in IRIG-B format EXTRA_SECOND_IRIG. That the integrator
supplies it as one list for each rate-correction mode is the model's choice (log 8); where none is supplied the group is
a free value (log 8). -/
def Obligations.ExtraGroupOfAYearRollover : Prop :=
  ∀ (c : Config) (rc : RcMode),
    (c.fmt.irig = false → c.wwvW0.toNat ≤ 960 → ∃ quiet : BitVec 10,
      extraSecond c rc = leadOf true ++ [⟨c.wwvW0, 100, .low⟩, ⟨quiet, 0, .off⟩] ∧
      (quiet.toNat : Int) = 970 - c.wwvW0.toNat + wwvMs rc) ∧
    (c.fmt.irig = true → ∀ g : ExtraGroups, c.extraSecondIrig = some g →
      extraSecond c rc = (match rc with
        | .none => g.nominal
        | .addCycle => g.lengthened
        | .removeCycle => g.shortened))

/-! ## Civil time -/

/-- A tick that neither ends the minute nor inserts a second adds 1 to the second and changes nothing else
(40_civil_time.md R102, R103). -/
def Obligations.OrdinaryTickAddsOneSecond : Prop :=
  ∀ s : State, civilInRange s.ct → s.leapState = .normal → s.ct.second.toNat < 59 → ¬ deletesNow s →
    advanceSecond s = .ok ({ s with ct := { s.ct with second := s.ct.second + 1 } }, false)

/-- At second 59 of the target minute of an insertion the second becomes 60 and the minute does not end; the tick after
it ends the minute: with no DST switch due it answers the next minute of the calendar, and whatever it answers stands at
second 0 of the next minute with the leap state Normal (40_civil_time.md R102, R105, R107). -/
def Obligations.LeapInsertionMakesSecondSixty : Prop :=
  ∀ s : State, civilInRange s.ct → insertsNow s →
    ∃ t : State, advanceSecond s = .ok (t, false) ∧
      t = { s with ct := { s.ct with second := 60 }, leapState := .zeroAfterInsert } ∧
      (¬ dstDue t → advanceSecond t = .ok (atNewMinute t (rippledHour t.ct) t.dst t.off,
        yearRolls t.ct (rippledHour t.ct) && t.cfg.leapWarn)) ∧
      (∀ (v : State) (extra : Bool), advanceSecond t = .ok (v, extra) →
        v.ct.second = 0 ∧ v.ct.minute.toNat = rippledMinute s.ct ∧ v.leapState = .normal)

/-- A tick that ends the minute, with no DST switch due, advances the minute, hour, day and year by the calendar, after a
leap deletion at second 58 too, and returns the leap state to Normal; the extra group is due exactly where the year
rolls over under a leap warning (40_civil_time.md R104, R105, R107, R112 to R114). -/
def Obligations.MinuteEndAdvancesTheCalendar : Prop :=
  ∀ s : State, civilInRange s.ct → wrapsNow s → ¬ dstDue s →
    advanceSecond s = .ok (atNewMinute s (rippledHour s.ct) s.dst s.off,
      yearRolls s.ct (rippledHour s.ct) && s.cfg.leapWarn)

/-- A DST activation adds one hour after the ripple, sets the DST state, moves the offset one hour later, and clears the
pending switch but not its target (40_civil_time.md R108, R109, R111). -/
def Obligations.DstActivationSkipsAnHour : Prop :=
  ∀ s : State, civilInRange s.ct → wrapsNow s → dstDue s → s.dst.active = false →
    advanceSecond s = .ok (atNewMinute s (rippledHour s.ct + 1)
      { active := true, pend := false, target := s.dst.target } (offsetInc s.off),
      yearRolls s.ct (rippledHour s.ct + 1) && s.cfg.leapWarn)

/-- A DST deactivation subtracts one hour after the ripple, clears the DST state, moves the offset one hour earlier, and
clears the pending switch but not its target; at hour 0 without a ripple it is refused (40_civil_time.md R110, R111). -/
def Obligations.DstDeactivationRepeatsAnHour : Prop :=
  ∀ s : State, civilInRange s.ct → wrapsNow s → dstDue s → s.dst.active = true →
    (1 ≤ rippledHour s.ct →
      advanceSecond s = .ok (atNewMinute s (rippledHour s.ct - 1)
        { active := false, pend := false, target := s.dst.target } (offsetDec s.off),
        yearRolls s.ct (rippledHour s.ct - 1) && s.cfg.leapWarn)) ∧
    (rippledHour s.ct = 0 → advanceSecond s = .error .dstHourBorrow)

/-- The offset functions change the denoted offset by one hour, exactly but for the two wraps of 24 hours from magnitude
15, and leave the half-hour flag; a decrement undoes an increment except at minus zero and at a wrap, where it denotes
the same offset modulo 24 hours (40_civil_time.md R117). -/
def Obligations.OffsetStepsAreOneHour : Prop :=
  ∀ o : Offset,
    (offsetInc o).half = o.half ∧ (offsetDec o).half = o.half ∧
    offsetHalfHours (offsetInc o) = offsetHalfHours o + 2 - (if o.sign = false ∧ o.hours = 15 then 48 else 0) ∧
    offsetHalfHours (offsetDec o) = offsetHalfHours o - 2 + (if o.sign = true ∧ o.hours = 15 then 48 else 0) ∧
    (offsetHalfHours (offsetDec (offsetInc o)) - offsetHalfHours o) % 48 = 0 ∧
    (o ≠ ⟨true, 0, false⟩ → ¬ (o.sign = false ∧ o.hours = 15) → offsetDec (offsetInc o) = o)

/-- PrevMinute (40_civil_time.md R121): a target with a minute above 0 goes back one minute, one with minute 0 and an hour
above 0 to minute 59 of the hour before, the hour 24 of 70_reset_and_hazards.md R304 included. For every target in the
ranges, hour 24 at minute 0 included, the minute it names is the one AdvanceSecond passes through: its second 59 is a
time in the ranges, whose ripple makes exactly the tuple of the target, before the hour is reduced, or, for a target at
hour 0 minute 0, whose next minute is the target. -/
def Obligations.PrevMinutePrecedesTheTarget : Prop :=
  ∀ t : Target,
    (0 < t.minute.toNat → prevMinute t = { t with minute := t.minute - 1 }) ∧
    (t.minute = 0 → 0 < t.hour.toNat → prevMinute t = { t with hour := t.hour - 1, minute := 59 }) ∧
    (t.year.toNat ≤ 99 → 1 ≤ t.day.toNat → t.day.toNat ≤ yearLength t.year → t.minute.toNat ≤ 59 →
      t.hour.toNat ≤ 23 ∨ (t.hour = 24 ∧ t.minute = 0) →
      let p := prevMinute t
      let c : CivilTime := ⟨p.year, p.day, p.hour, p.minute, 59⟩
      civilInRange c ∧
      (if t.hour = 0 ∧ t.minute = 0 then minuteOf (settled c (rippledHour c) (rippledMinute c)) = t
       else p.year = t.year ∧ p.day = t.day ∧ rippledHour c = t.hour.toNat ∧ rippledMinute c = t.minute.toNat) ∧
      (t.hour.toNat ≤ 23 → minuteOf (settled c (rippledHour c) (rippledMinute c)) = t))

/-- The three pending flags (40_civil_time.md R118 to R120). -/
def Obligations.PendingFlagsFollowTheTargets : Prop :=
  ∀ s : State,
    (leapSecondPending s = true ↔ (s.cfg.leap.ins = true ∨ s.cfg.leap.del = true) ∧ atLeapTarget s) ∧
    (leapPolarity s = true ↔ s.cfg.leap.del = true ∧ atLeapTarget s) ∧
    (dstPendingFlag s = true ↔ s.dst.pend = true ∧ minuteOf s.ct = prevMinute s.dst.target)

/-! ## The encoder -/

/-- The nine digits of the WWV buffer (43_bcd_encoder.md R220). -/
def Obligations.WwvBufferDigits : Prop :=
  ∀ t : CivilTime, (wwvBuffer t).map BitVec.toNat =
    [t.year.toNat / 10 % 10, t.day.toNat / 100 % 10, t.day.toNat / 10 % 10, t.day.toNat % 10,
     t.hour.toNat / 10 % 10, t.hour.toNat % 10, t.minute.toNat / 10 % 10, t.minute.toNat % 10, t.year.toNat % 10]

/-- The digits of the IRIG-B buffer: five hex digits of the straight binary seconds and of the control-functions word,
most significant first, then year or filler, day, hour, minute, second; the straight binary seconds reach 86400 at
most (43_bcd_encoder.md R224 to R227, R229). -/
def Obligations.IrigBufferDigits : Prop :=
  ∀ s : State,
    let seconds := s.ct.second.toNat + 60 * s.ct.minute.toNat + 3600 * s.ct.hour.toNat
    let cf := (cfWord s).toNat
    (irigBuffer s).map BitVec.toNat =
      [seconds / 65536 % 16, seconds / 4096 % 16, seconds / 256 % 16, seconds / 16 % 16, seconds % 16,
       cf / 65536 % 16, cf / 4096 % 16, cf / 256 % 16, cf / 16 % 16, cf % 16,
       if s.cfg.fmt.year then s.ct.year.toNat / 10 % 10 else 0, if s.cfg.fmt.year then s.ct.year.toNat % 10 else 0,
       s.ct.day.toNat / 1000 % 10, s.ct.day.toNat / 100 % 10, s.ct.day.toNat / 10 % 10, s.ct.day.toNat % 10,
       s.ct.hour.toNat / 10 % 10, s.ct.hour.toNat % 10, s.ct.minute.toNat / 10 % 10, s.ct.minute.toNat % 10,
       s.ct.second.toNat / 10 % 10, s.ct.second.toNat % 10] ∧
    (civilInRange s.ct → seconds ≤ 86400)

/-- Every bit of the control-functions word under IEEE-1344, and 0 without it; the data word is the same word with bit 14
cleared (43_bcd_encoder.md R228). -/
def Obligations.ControlFunctionBits : Prop :=
  ∀ s : State,
    cfData s = cfWord s &&& 0x3FFF#15 ∧ (s.cfg.fmt.ieee = false → cfWord s = 0) ∧
    (s.cfg.fmt.ieee = true →
      (cfWord s).getLsbD 0 = leapSecondPending s ∧ (cfWord s).getLsbD 1 = leapPolarity s ∧
      (cfWord s).getLsbD 2 = dstPendingFlag s ∧ (cfWord s).getLsbD 3 = s.dst.active ∧
      (cfWord s).getLsbD 4 = s.off.sign ∧ (∀ k < 4, (cfWord s).getLsbD (5 + k) = s.off.hours.getLsbD k) ∧
      (cfWord s).getLsbD 9 = s.off.half ∧ (∀ k < 4, (cfWord s).getLsbD (10 + k) = s.cfg.tq.getLsbD k) ∧
      (cfWord s).getLsbD 14 = parity s)

/-- The code word has even parity: under IEEE-1344 the parity bit is 1 iff the 17 digits without it hold an odd number of
1 bits, the digits 5 to 21 with it hold an even number, and the count is below 50; the bits are counted one by one
(44_parity.md R252). -/
def Obligations.CodeWordHasEvenParity : Prop :=
  ∀ s : State, s.cfg.fmt.ieee = true →
    let digits := hex5 (cfData s).toNat ++ (irigBuffer s).drop 10
    (parity s = true ↔ onesIn digits % 2 = 1) ∧ onesIn ((irigBuffer s).drop 5) % 2 = 0 ∧ onesIn digits < 50

/-- Digit bounds of the buffers in every state within the ranges (43_bcd_encoder.md R233). -/
def Obligations.BufferDigitBounds : Prop :=
  ∀ s : State, civilInRange s.ct →
    (∀ d ∈ wwvBuffer s.ct, d.toNat ≤ 9) ∧ (∀ d ∈ (irigBuffer s).drop 10, d.toNat ≤ 9) ∧
    (digitAt (irigBuffer s) 0).toNat ≤ 1 ∧ digitAt (irigBuffer s) 5 = 0 ∧ (digitAt (irigBuffer s) 6).toNat ≤ 7 ∧
    digitAt (irigBuffer s) 12 = 0 ∧ (digitAt (irigBuffer s) 13).toNat ≤ 3 ∧
    (digitAt (irigBuffer s) 16).toNat ≤ 2 ∧ (digitAt (irigBuffer s) 18).toNat ≤ 5 ∧
    (digitAt (irigBuffer s) 20).toNat ≤ 6

/-- Outside IEEE-1344 the pending flags, the DST state, the offset and the time quality do not reach the IRIG-B code: the
loop over bit positions, run from two states that agree on the civil time, the cursor, the format, the tables, the frame map, the
rate correction and `IRIG_RC_BIT` but may differ in those inputs, emits the same descriptors in both
(43_bcd_encoder.md R230). -/
def Obligations.ControlInputsHiddenOutsideIeee : Prop :=
  ∀ (n b : Nat) (s s' t : State),
    s.cfg.fmt.irig = true → s.cfg.fmt.ieee = false → s'.cfg.fmt = s.cfg.fmt → s'.cfg.tables = s.cfg.tables →
    s'.cfg.frames = s.cfg.frames → s'.cfg.irigRcBit = s.cfg.irigRcBit → s'.ct = s.ct → s'.cur = s.cur → s'.rc = s.rc → s'.out = s.out →
    s'.fault = s.fault → runBits n b s = .next t →
    ∃ t', runBits n b s' = .next t' ∧ t'.out = t.out ∧ t'.cur = t.cur ∧ t'.fault = t.fault

/-! ## One second with the default tables -/

/-- With the default tables and the default frame map an IRIG-B TICK sends, bit by bit, exactly the code map of the spec,
raises nothing, ends with the cursor at 0 and the bit index at 0, and leaves the civil, DST and offset registers as
AdvanceSecond made them (41_format_tables.md R146 to R153). That the rate correction is None after it is the model's
choice (log 6). -/
def Obligations.DefaultIrigSecondSendsTheCodeMap : Prop :=
  ∀ (s u : State) (rc : RcMode) (rest : List Command) (extra : Bool),
    Inv s → s.cfg.fmt.irig = true → s.cfg.tables = [] → s.cfg.frames = defaultFrames →
    tickAdvances s rc rest u extra →
    step s = .next { u with
      out := extraGroup u extra ++ irigSecond u.cfg rc (irigBuffer u), cur := 0, bitIndex := 0, rc := .none } ∧
    u.fault = false

/-- With the default table, and the cursor where a full minute leaves it, a WWV TICK sends exactly what the spec's table
carries in the second that begins, raises nothing, and leaves the cursor where a full minute leaves it
(41_format_tables.md R142, R144, 43_bcd_encoder.md R223). -/
def Obligations.DefaultWwvSecondSendsTheCodeMap : Prop :=
  ∀ (s u : State) (rc : RcMode) (rest : List Command) (extra : Bool),
    Inv s → s.cfg.fmt.irig = false → s.cfg.tables = [] → tickAdvances s rc rest u extra →
    (u.ct.second = 0 ∨ s.cur.toNat = wwvCursorAfter s.ct.second.toNat) →
    ∃ (src : Source) (t : State), wwvMap[u.ct.second.toNat]? = some src ∧ step s = .next t ∧ t.fault = false ∧
      t.cur.toNat = wwvCursorAfter t.ct.second.toNat ∧
      wwvSent { u with out := extraGroup u extra, cur := t.cur, bitIndex := 0 } src { t with rc := rc }

/-- The default tables, with the default frame map, never raise a fault, however many TICKs the host issues: not in
IRIG-B, and not in WWV from any cursor at or above the one a full minute leaves, where a LOAD at any start second puts it (41_format_tables.md R143,
R152, 70_reset_and_hazards.md R303). -/
def Obligations.DefaultTablesNeverFault : Prop :=
  ∀ s : State,
    Inv s → s.cfg.tables = [] → s.cfg.frames = defaultFrames → s.fault = false →
    (∀ k ∈ s.cmds, ∃ code : BitVec 2, k = .tick code ∧ code.toNat < 3) →
    (s.cfg.fmt.irig = false → wwvCursorAfter s.ct.second.toNat ≤ s.cur.toNat) →
    ∀ n, safeFor n s

/-- IRIG-B durations (42_pulse_ops.md R196): the two descriptors of a bit sum to 10 ms, with the rate correction at
`IRIG_RC_BIT` only; those of a second, whatever the tables hold, are 200 and sum to 1000 ms with the rate correction
applied once. -/
def Obligations.IrigSecondDurationSum : Prop :=
  (∀ (c : Config) (kind : PulseKind) (b : BitVec 7) (rc : RcMode),
    (irigBit c kind b rc).length = 2 ∧
    (totalMs (irigBit c kind b rc) : Int) = 10 + (if b = c.irigRcBit then irigMs rc else 0)) ∧
  ∀ (s u t : State) (rc : RcMode) (rest : List Command) (extra : Bool),
    Inv s → s.cfg.fmt.irig = true → tickAdvances s rc rest u extra → step s = .next t → t.fault = false →
    ∃ ps, t.out = extraGroup u extra ++ ps ∧ ps.length = 200 ∧ (totalMs ps : Int) = 1000 + irigMs rc

/-! ## Faults and host commands -/

/-- A fault is precise with respect to entries. In WWV format a TICK that raises leaves the registers as AdvanceSecond made
them, the cursor as the second began, the position of the entry in `findex` and no output but the extra group if any.
In IRIG-B format it leaves exactly the state that the loop over the bit positions before `findex` reached, their output
(two descriptors each, after the extra group if any) and cursor movement included, with the fault registers and the bit
index at the faulting position; and the entry at that position is one that raises from that state (60_exceptions.md
R262, R263). That the rate correction is None after it is the model's choice (log 6). -/
def Obligations.FaultIsPrecise : Prop :=
  ∀ (s u t : State) (rc : RcMode) (rest : List Command) (extra : Bool),
    Inv s → tickAdvances s rc rest u extra → step s = .next t → t.fault = true →
    t.fcause ≠ .none ∧
    (s.cfg.fmt.irig = false → t = { u with
      out := extraGroup u extra, cur := (if u.ct.second = 0 then 8 else u.cur), bitIndex := 0, rc := .none,
      fault := true, fcause := t.fcause, findex := u.ct.second.setWidth 7 }) ∧
    (s.cfg.fmt.irig = true → t.findex.toNat ≤ 99 ∧ ∃ v : State,
      runBits t.findex.toNat 0 { u with out := extraGroup u extra, cur := 21 } = .next v ∧ v.fault = false ∧
      t = { v with fault := true, fcause := t.fcause, findex := t.findex, bitIndex := t.findex, rc := .none } ∧
      runBit t.findex.toNat v = .next (faulted { v with bitIndex := t.findex } t.fcause) ∧
      ∃ ps, v.out = extraGroup u extra ++ ps ∧ ps.length = 2 * t.findex.toNat)

/-- While a fault is set TICKs change no register and emit nothing, however many the host issues (60_exceptions.md
R264). -/
def Obligations.StuckWhileFaultIsSet : Prop :=
  ∀ (n : Nat) (s : State) (rest : List Command) (codes : List (BitVec 2)),
    s.loaded = true → s.fault = true → codes.length = n → (∀ c ∈ codes, c.toNat < 3) →
    s.cmds = codes.map Command.tick ++ rest →
    ∃ t, Host.Core.run Sys2Proof.core n s = .next t ∧ sameRegisters s t ∧ (0 < n → t.out = [])

/-- What LOAD requires of a configuration: the ranges of the start value and the requirements on targets, flags and codes
(70_reset_and_hazards.md R300, R301). -/
def Obligations.LegalConfigurationRanges : Prop :=
  ∀ c : Config, configLegal c ↔
    (c.start.year.toNat ≤ 99 ∧ 1 ≤ c.start.day.toNat ∧
      c.start.day.toNat ≤ (if c.start.year.toNat % 4 = 0 then 366 else 365) ∧
      c.start.hour.toNat ≤ 23 ∧ c.start.minute.toNat ≤ 59 ∧ c.start.second.toNat ≤ 59) ∧
    (c.off.hours.toNat ≤ 15 ∧ c.tq.toNat ≤ 15 ∧ c.dut1.toNat ≤ 15 ∧
      1 ≤ c.fSync.toNat ∧ c.fSync.toNat ≤ 2047 ∧ 1 ≤ c.fHour.toNat ∧ c.fHour.toNat ≤ 2047 ∧
      (c.irigRcBit = 42 ∨ c.irigRcBit = 43) ∧
      ¬ (c.dst.req = true ∧ c.dst.active0 = true ∧ c.dst.target.hour = 0 ∧ c.dst.target.minute ≠ 0))

/-- LOAD (60_exceptions.md R270, 10_state.md R48): outside the ranges of 70_reset_and_hazards.md R300 and R301 it is
refused; otherwise it gives every register its reset value and emits nothing, in any state, the fault state and the
state before the first LOAD included. -/
def Obligations.LoadGivesTheResetValues : Prop :=
  ∀ (s : State) (c : Config) (rest : List Command), s.cmds = .load c :: rest →
    (¬ configLegal c → step s = .refused .startOutOfRange ∨ step s = .refused .configOutOfRange) ∧
    (configLegal c → ∃ t, step s = .next t ∧
      t.ct = c.start ∧ t.leapState = .normal ∧ t.dst.active = c.dst.active0 ∧ t.dst.pend = c.dst.req ∧
      t.dst.target = c.dst.target ∧ t.off = c.off ∧ t.cur = (if c.fmt.irig then 21 else 8) ∧ t.bitIndex = 0 ∧
      t.fault = false ∧ t.fcause = .none ∧ t.findex = 0 ∧ t.cfg = c ∧ t.loaded = true ∧ t.out = [] ∧ t.cmds = rest)

/-- What is refused of TICK: before the first LOAD, and with 3 on the rate-correction port (60_exceptions.md R271,
70_reset_and_hazards.md R291, 93_implementation_defined.md U7). Where two conditions meet, the spec gives no order: that
a TICK before LOAD is refused under that name whatever the port, and that code 3 is refused in the fault state too, is
the model's choice (log 23). -/
def Obligations.TicksOutsideTheirContractAreRefused : Prop :=
  ∀ (s : State) (rest : List Command),
    (∀ code, s.cmds = .tick code :: rest → s.loaded = false → step s = .refused .tickBeforeLoad) ∧
    (s.cmds = .tick 3 :: rest → s.loaded = true → step s = .refused .rcPortReserved)

/-- The first TICK after a LOAD encodes the time AdvanceSecond makes of the start value, which is the start value plus one
second where the start second is below 58 and no leap event can arm (70_reset_and_hazards.md R302). -/
def Obligations.FirstTickIsStartPlusOne : Prop :=
  ∀ (s : State) (c : Config) (rest : List Command) (code : BitVec 2) (rc : RcMode),
    s.cmds = .load c :: .tick code :: rest → configLegal c → rcOfCode code = some rc →
    ∃ (u t : State) (extra : Bool),
      tickAdvances (State.afterLoad c (.tick code :: rest)) rc rest u extra ∧
      Host.Core.run Sys2Proof.core 2 s = .next t ∧ t.ct = u.ct ∧ t.cfg = c ∧ t.cmds = rest ∧
      (c.start.second.toNat < 58 → t.ct = { c.start with second := c.start.second + 1 })

/-- Configuration is constant between LOADs: a TICK that answers a next state leaves the configuration and every entry of
every table as they were (10_state.md R45, 20_memory.md R74), and the DST target (40_civil_time.md R111). That the state
holds the configuration as LOAD copied it is the model's reading (log 15), and that a TICK takes exactly one command of
a list is the model's choice (log 2). -/
def Obligations.TickKeepsTheConfiguration : Prop :=
  ∀ (s t : State) (code : BitVec 2) (rest : List Command),
    s.cmds = .tick code :: rest → step s = .next t →
    t.cfg = s.cfg ∧ (∀ (tb : TableSpace) (n : Nat), tblRead t.cfg.tables tb n = tblRead s.cfg.tables tb n) ∧
    t.loaded = s.loaded ∧ t.cmds = rest ∧ t.dst.target = s.dst.target

/-! ## The invariant -/

/-- The invariant holds right after reset. `State.reset` is the state after a LOAD of the default configuration, whose input
values are the model's choice (log 3). -/
def Obligations.InvariantHoldsAtReset : Prop := Inv State.reset

/-- Every step keeps the invariant: the ranges of the civil time, second 60 exactly with ZeroAfterInsert, the cursor inside
the active buffer, the fault registers consistent, the DST registers as loaded while pending (10_state.md R21 to R32,
40_civil_time.md R111). Its clauses on the model's own fields are the model's choices: a LOAD has been issued (log 5),
the rate correction is None between commands (log 6), the tables of the configuration and of the waiting commands are in
canonical form (log 7). -/
def Obligations.StepKeepsTheInvariant : Prop :=
  ∀ s t : State, Inv s → step s = .next t → Inv t

/-- From the invariant, a step on a legal command, or on none, never stops: no read out of range, no DST borrow, no
refusal (20_memory.md R64, R66, 40_civil_time.md R122). -/
def Obligations.LegalCommandsAlwaysComplete : Prop :=
  ∀ s : State, Inv s → (∀ k, s.cmds.head? = some k → commandLegal k) → ∃ t, step s = .next t
end

