-- ==== Sys2Proof/Laws/State.lean ====
section
/-! SUPPORT. One lemma per field per named update of State, true by rfl, so that no later proof unfolds a record update. -/

namespace Sys2Proof.Machine

variable (s : State)

/-! ## emitAll -/

@[simp] theorem emitAll_ct (ps : List PulseSpec) : (s.emitAll ps).ct = s.ct := rfl
@[simp] theorem emitAll_leapState (ps : List PulseSpec) : (s.emitAll ps).leapState = s.leapState := rfl
@[simp] theorem emitAll_dst (ps : List PulseSpec) : (s.emitAll ps).dst = s.dst := rfl
@[simp] theorem emitAll_off (ps : List PulseSpec) : (s.emitAll ps).off = s.off := rfl
@[simp] theorem emitAll_cur (ps : List PulseSpec) : (s.emitAll ps).cur = s.cur := rfl
@[simp] theorem emitAll_bitIndex (ps : List PulseSpec) : (s.emitAll ps).bitIndex = s.bitIndex := rfl
@[simp] theorem emitAll_fault (ps : List PulseSpec) : (s.emitAll ps).fault = s.fault := rfl
@[simp] theorem emitAll_fcause (ps : List PulseSpec) : (s.emitAll ps).fcause = s.fcause := rfl
@[simp] theorem emitAll_findex (ps : List PulseSpec) : (s.emitAll ps).findex = s.findex := rfl
@[simp] theorem emitAll_cfg (ps : List PulseSpec) : (s.emitAll ps).cfg = s.cfg := rfl
@[simp] theorem emitAll_loaded (ps : List PulseSpec) : (s.emitAll ps).loaded = s.loaded := rfl
@[simp] theorem emitAll_rc (ps : List PulseSpec) : (s.emitAll ps).rc = s.rc := rfl
@[simp] theorem emitAll_out (ps : List PulseSpec) : (s.emitAll ps).out = s.out ++ ps := rfl
@[simp] theorem emitAll_cmds (ps : List PulseSpec) : (s.emitAll ps).cmds = s.cmds := rfl

/-! ## raised -/

@[simp] theorem raised_ct (c : FaultCause) : (s.raised c).ct = s.ct := rfl
@[simp] theorem raised_leapState (c : FaultCause) : (s.raised c).leapState = s.leapState := rfl
@[simp] theorem raised_dst (c : FaultCause) : (s.raised c).dst = s.dst := rfl
@[simp] theorem raised_off (c : FaultCause) : (s.raised c).off = s.off := rfl
@[simp] theorem raised_cur (c : FaultCause) : (s.raised c).cur = s.cur := rfl
@[simp] theorem raised_bitIndex (c : FaultCause) : (s.raised c).bitIndex = s.bitIndex := rfl
@[simp] theorem raised_fault (c : FaultCause) : (s.raised c).fault = true := rfl
@[simp] theorem raised_fcause (c : FaultCause) : (s.raised c).fcause = c := rfl
@[simp] theorem raised_findex (c : FaultCause) : (s.raised c).findex = position s := rfl
@[simp] theorem raised_cfg (c : FaultCause) : (s.raised c).cfg = s.cfg := rfl
@[simp] theorem raised_loaded (c : FaultCause) : (s.raised c).loaded = s.loaded := rfl
@[simp] theorem raised_rc (c : FaultCause) : (s.raised c).rc = s.rc := rfl
@[simp] theorem raised_out (c : FaultCause) : (s.raised c).out = s.out := rfl
@[simp] theorem raised_cmds (c : FaultCause) : (s.raised c).cmds = s.cmds := rfl

/-! ## cursorLeft -/

@[simp] theorem cursorLeft_ct : (s.cursorLeft).ct = s.ct := rfl
@[simp] theorem cursorLeft_leapState : (s.cursorLeft).leapState = s.leapState := rfl
@[simp] theorem cursorLeft_dst : (s.cursorLeft).dst = s.dst := rfl
@[simp] theorem cursorLeft_off : (s.cursorLeft).off = s.off := rfl
@[simp] theorem cursorLeft_cur : (s.cursorLeft).cur = s.cur - 1 := rfl
@[simp] theorem cursorLeft_bitIndex : (s.cursorLeft).bitIndex = s.bitIndex := rfl
@[simp] theorem cursorLeft_fault : (s.cursorLeft).fault = s.fault := rfl
@[simp] theorem cursorLeft_fcause : (s.cursorLeft).fcause = s.fcause := rfl
@[simp] theorem cursorLeft_findex : (s.cursorLeft).findex = s.findex := rfl
@[simp] theorem cursorLeft_cfg : (s.cursorLeft).cfg = s.cfg := rfl
@[simp] theorem cursorLeft_loaded : (s.cursorLeft).loaded = s.loaded := rfl
@[simp] theorem cursorLeft_rc : (s.cursorLeft).rc = s.rc := rfl
@[simp] theorem cursorLeft_out : (s.cursorLeft).out = s.out := rfl
@[simp] theorem cursorLeft_cmds : (s.cursorLeft).cmds = s.cmds := rfl

/-! ## atBit -/

@[simp] theorem atBit_ct (b : Nat) : (s.atBit b).ct = s.ct := rfl
@[simp] theorem atBit_leapState (b : Nat) : (s.atBit b).leapState = s.leapState := rfl
@[simp] theorem atBit_dst (b : Nat) : (s.atBit b).dst = s.dst := rfl
@[simp] theorem atBit_off (b : Nat) : (s.atBit b).off = s.off := rfl
@[simp] theorem atBit_cur (b : Nat) : (s.atBit b).cur = s.cur := rfl
@[simp] theorem atBit_bitIndex (b : Nat) : (s.atBit b).bitIndex = BitVec.ofNat 7 b := rfl
@[simp] theorem atBit_fault (b : Nat) : (s.atBit b).fault = s.fault := rfl
@[simp] theorem atBit_fcause (b : Nat) : (s.atBit b).fcause = s.fcause := rfl
@[simp] theorem atBit_findex (b : Nat) : (s.atBit b).findex = s.findex := rfl
@[simp] theorem atBit_cfg (b : Nat) : (s.atBit b).cfg = s.cfg := rfl
@[simp] theorem atBit_loaded (b : Nat) : (s.atBit b).loaded = s.loaded := rfl
@[simp] theorem atBit_rc (b : Nat) : (s.atBit b).rc = s.rc := rfl
@[simp] theorem atBit_out (b : Nat) : (s.atBit b).out = s.out := rfl
@[simp] theorem atBit_cmds (b : Nat) : (s.atBit b).cmds = s.cmds := rfl

/-! ## beginTick -/

@[simp] theorem beginTick_ct (r : RcMode) : (s.beginTick r).ct = s.ct := rfl
@[simp] theorem beginTick_leapState (r : RcMode) : (s.beginTick r).leapState = s.leapState := rfl
@[simp] theorem beginTick_dst (r : RcMode) : (s.beginTick r).dst = s.dst := rfl
@[simp] theorem beginTick_off (r : RcMode) : (s.beginTick r).off = s.off := rfl
@[simp] theorem beginTick_cur (r : RcMode) : (s.beginTick r).cur = s.cur := rfl
@[simp] theorem beginTick_bitIndex (r : RcMode) : (s.beginTick r).bitIndex = s.bitIndex := rfl
@[simp] theorem beginTick_fault (r : RcMode) : (s.beginTick r).fault = s.fault := rfl
@[simp] theorem beginTick_fcause (r : RcMode) : (s.beginTick r).fcause = s.fcause := rfl
@[simp] theorem beginTick_findex (r : RcMode) : (s.beginTick r).findex = s.findex := rfl
@[simp] theorem beginTick_cfg (r : RcMode) : (s.beginTick r).cfg = s.cfg := rfl
@[simp] theorem beginTick_loaded (r : RcMode) : (s.beginTick r).loaded = s.loaded := rfl
@[simp] theorem beginTick_rc (r : RcMode) : (s.beginTick r).rc = r := rfl
@[simp] theorem beginTick_out (r : RcMode) : (s.beginTick r).out = [] := rfl
@[simp] theorem beginTick_cmds (r : RcMode) : (s.beginTick r).cmds = s.cmds := rfl

/-! ## endTick -/

@[simp] theorem endTick_ct : (s.endTick).ct = s.ct := rfl
@[simp] theorem endTick_leapState : (s.endTick).leapState = s.leapState := rfl
@[simp] theorem endTick_dst : (s.endTick).dst = s.dst := rfl
@[simp] theorem endTick_off : (s.endTick).off = s.off := rfl
@[simp] theorem endTick_cur : (s.endTick).cur = s.cur := rfl
@[simp] theorem endTick_bitIndex : (s.endTick).bitIndex = s.bitIndex := rfl
@[simp] theorem endTick_fault : (s.endTick).fault = s.fault := rfl
@[simp] theorem endTick_fcause : (s.endTick).fcause = s.fcause := rfl
@[simp] theorem endTick_findex : (s.endTick).findex = s.findex := rfl
@[simp] theorem endTick_cfg : (s.endTick).cfg = s.cfg := rfl
@[simp] theorem endTick_loaded : (s.endTick).loaded = s.loaded := rfl
@[simp] theorem endTick_rc : (s.endTick).rc = .none := rfl
@[simp] theorem endTick_out : (s.endTick).out = s.out := rfl
@[simp] theorem endTick_cmds : (s.endTick).cmds = s.cmds := rfl

/-! ## wwvPrepare -/

@[simp] theorem wwvPrepare_ct : (wwvPrepare s).ct = s.ct := rfl
@[simp] theorem wwvPrepare_leapState : (wwvPrepare s).leapState = s.leapState := rfl
@[simp] theorem wwvPrepare_dst : (wwvPrepare s).dst = s.dst := rfl
@[simp] theorem wwvPrepare_off : (wwvPrepare s).off = s.off := rfl
@[simp] theorem wwvPrepare_cur : (wwvPrepare s).cur = (if s.ct.second = 0 then 8 else s.cur) := rfl
@[simp] theorem wwvPrepare_bitIndex : (wwvPrepare s).bitIndex = 0 := rfl
@[simp] theorem wwvPrepare_fault : (wwvPrepare s).fault = s.fault := rfl
@[simp] theorem wwvPrepare_fcause : (wwvPrepare s).fcause = s.fcause := rfl
@[simp] theorem wwvPrepare_findex : (wwvPrepare s).findex = s.findex := rfl
@[simp] theorem wwvPrepare_cfg : (wwvPrepare s).cfg = s.cfg := rfl
@[simp] theorem wwvPrepare_loaded : (wwvPrepare s).loaded = s.loaded := rfl
@[simp] theorem wwvPrepare_rc : (wwvPrepare s).rc = s.rc := rfl
@[simp] theorem wwvPrepare_out : (wwvPrepare s).out = s.out := rfl
@[simp] theorem wwvPrepare_cmds : (wwvPrepare s).cmds = s.cmds := rfl

/-! ## irigPrepare -/

@[simp] theorem irigPrepare_ct : (irigPrepare s).ct = s.ct := rfl
@[simp] theorem irigPrepare_leapState : (irigPrepare s).leapState = s.leapState := rfl
@[simp] theorem irigPrepare_dst : (irigPrepare s).dst = s.dst := rfl
@[simp] theorem irigPrepare_off : (irigPrepare s).off = s.off := rfl
@[simp] theorem irigPrepare_cur : (irigPrepare s).cur = 21 := rfl
@[simp] theorem irigPrepare_bitIndex : (irigPrepare s).bitIndex = s.bitIndex := rfl
@[simp] theorem irigPrepare_fault : (irigPrepare s).fault = s.fault := rfl
@[simp] theorem irigPrepare_fcause : (irigPrepare s).fcause = s.fcause := rfl
@[simp] theorem irigPrepare_findex : (irigPrepare s).findex = s.findex := rfl
@[simp] theorem irigPrepare_cfg : (irigPrepare s).cfg = s.cfg := rfl
@[simp] theorem irigPrepare_loaded : (irigPrepare s).loaded = s.loaded := rfl
@[simp] theorem irigPrepare_rc : (irigPrepare s).rc = s.rc := rfl
@[simp] theorem irigPrepare_out : (irigPrepare s).out = s.out := rfl
@[simp] theorem irigPrepare_cmds : (irigPrepare s).cmds = s.cmds := rfl

/-! ## dstActivate -/

@[simp] theorem dstActivate_ct : (dstActivate s).ct = { s.ct with hour := s.ct.hour + 1 } := rfl
@[simp] theorem dstActivate_leapState : (dstActivate s).leapState = s.leapState := rfl
@[simp] theorem dstActivate_dst : (dstActivate s).dst = { s.dst with active := true, pend := false } := rfl
@[simp] theorem dstActivate_off : (dstActivate s).off = offsetInc s.off := rfl
@[simp] theorem dstActivate_cur : (dstActivate s).cur = s.cur := rfl
@[simp] theorem dstActivate_bitIndex : (dstActivate s).bitIndex = s.bitIndex := rfl
@[simp] theorem dstActivate_fault : (dstActivate s).fault = s.fault := rfl
@[simp] theorem dstActivate_fcause : (dstActivate s).fcause = s.fcause := rfl
@[simp] theorem dstActivate_findex : (dstActivate s).findex = s.findex := rfl
@[simp] theorem dstActivate_cfg : (dstActivate s).cfg = s.cfg := rfl
@[simp] theorem dstActivate_loaded : (dstActivate s).loaded = s.loaded := rfl
@[simp] theorem dstActivate_rc : (dstActivate s).rc = s.rc := rfl
@[simp] theorem dstActivate_out : (dstActivate s).out = s.out := rfl
@[simp] theorem dstActivate_cmds : (dstActivate s).cmds = s.cmds := rfl

/-! ## dstDeactivate -/

@[simp] theorem dstDeactivate_ct : (dstDeactivate s).ct = { s.ct with hour := s.ct.hour - 1 } := rfl
@[simp] theorem dstDeactivate_leapState : (dstDeactivate s).leapState = s.leapState := rfl
@[simp] theorem dstDeactivate_dst : (dstDeactivate s).dst = { s.dst with active := false, pend := false } := rfl
@[simp] theorem dstDeactivate_off : (dstDeactivate s).off = offsetDec s.off := rfl
@[simp] theorem dstDeactivate_cur : (dstDeactivate s).cur = s.cur := rfl
@[simp] theorem dstDeactivate_bitIndex : (dstDeactivate s).bitIndex = s.bitIndex := rfl
@[simp] theorem dstDeactivate_fault : (dstDeactivate s).fault = s.fault := rfl
@[simp] theorem dstDeactivate_fcause : (dstDeactivate s).fcause = s.fcause := rfl
@[simp] theorem dstDeactivate_findex : (dstDeactivate s).findex = s.findex := rfl
@[simp] theorem dstDeactivate_cfg : (dstDeactivate s).cfg = s.cfg := rfl
@[simp] theorem dstDeactivate_loaded : (dstDeactivate s).loaded = s.loaded := rfl
@[simp] theorem dstDeactivate_rc : (dstDeactivate s).rc = s.rc := rfl
@[simp] theorem dstDeactivate_out : (dstDeactivate s).out = s.out := rfl
@[simp] theorem dstDeactivate_cmds : (dstDeactivate s).cmds = s.cmds := rfl

/-! ## afterLoad -/

@[simp] theorem afterLoad_ct (c : Config) (rest : List Command) :
    (State.afterLoad c rest).ct = c.start := rfl
@[simp] theorem afterLoad_leapState (c : Config) (rest : List Command) :
    (State.afterLoad c rest).leapState = .normal := rfl
@[simp] theorem afterLoad_dst (c : Config) (rest : List Command) :
    (State.afterLoad c rest).dst = { active := c.dst.active0, pend := c.dst.req, target := c.dst.target } := rfl
@[simp] theorem afterLoad_off (c : Config) (rest : List Command) :
    (State.afterLoad c rest).off = c.off := rfl
@[simp] theorem afterLoad_cur (c : Config) (rest : List Command) :
    (State.afterLoad c rest).cur = lastIndex c.fmt := rfl
@[simp] theorem afterLoad_bitIndex (c : Config) (rest : List Command) :
    (State.afterLoad c rest).bitIndex = 0 := rfl
@[simp] theorem afterLoad_fault (c : Config) (rest : List Command) :
    (State.afterLoad c rest).fault = false := rfl
@[simp] theorem afterLoad_fcause (c : Config) (rest : List Command) :
    (State.afterLoad c rest).fcause = .none := rfl
@[simp] theorem afterLoad_findex (c : Config) (rest : List Command) :
    (State.afterLoad c rest).findex = 0 := rfl
@[simp] theorem afterLoad_cfg (c : Config) (rest : List Command) :
    (State.afterLoad c rest).cfg = c := rfl
@[simp] theorem afterLoad_loaded (c : Config) (rest : List Command) :
    (State.afterLoad c rest).loaded = true := rfl
@[simp] theorem afterLoad_rc (c : Config) (rest : List Command) :
    (State.afterLoad c rest).rc = .none := rfl
@[simp] theorem afterLoad_out (c : Config) (rest : List Command) :
    (State.afterLoad c rest).out = [] := rfl
@[simp] theorem afterLoad_cmds (c : Config) (rest : List Command) :
    (State.afterLoad c rest).cmds = rest := rfl

end Sys2Proof.Machine
end

