-- ==== Sys2Proof/Laws/Civil.lean ====
section
/-! SUPPORT. What each step of AdvanceSecond can do, and what it leaves alone. -/

namespace Sys2Proof.Machine

/-- Step 1 arms at most the leap state (40_civil_time.md R102). -/
theorem armLeap_cases (s : State) :
    (armLeap s = { s with leapState := .deleting } ∧ s.leapState = .normal ∧ leapMatch s = true ∧
      s.cfg.leap.del = true ∧ s.ct.second = 58) ∨
    (armLeap s = { s with leapState := .inserting } ∧ s.leapState = .normal ∧ leapMatch s = true ∧
      s.cfg.leap.ins = true ∧ s.ct.second = 59) ∨
    armLeap s = s := by
  unfold armLeap
  split
  · rename_i h
    split
    · rename_i h'; exact .inl ⟨rfl, h.1, h.2, h'.1, h'.2⟩
    · split
      · rename_i h'; exact .inr (.inl ⟨rfl, h.1, h.2, h'.1, h'.2⟩)
      · exact .inr (.inr rfl)
  · exact .inr (.inr rfl)

/-- Step 2 leaves the second in 0 to 60 and the leap state Normal or ZeroAfterInsert, whatever the state before (R106). -/
theorem advanceSecondField_cases (s : State) :
    (∃ n : Nat, n ≤ 59 ∧ advanceSecondField s =
      { s with ct := { s.ct with second := BitVec.ofNat 6 n }, leapState := .normal }) ∨
    (s.leapState = .inserting ∧ advanceSecondField s =
      { s with ct := { s.ct with second := 60 }, leapState := .zeroAfterInsert }) := by
  unfold advanceSecondField
  split
  · rename_i h
    refine .inl ⟨(s.ct.second.toNat + 1) % 60, by omega, ?_⟩
    simp [← h]
  · exact .inl ⟨0, by omega, rfl⟩
  · exact .inr ⟨‹_›, rfl⟩
  · exact .inl ⟨0, by omega, rfl⟩

/-- Step 3's DST test has three outcomes that are no refusal (R108 to R111). -/
theorem dstSwitch_ok {s t : State} (h : dstSwitch s = .ok t) :
    (dstFire s = true ∧ s.dst.active = true ∧ s.ct.hour ≠ 0 ∧ t = dstDeactivate s) ∨
    (dstFire s = true ∧ s.dst.active = false ∧ t = dstActivate s) ∨ (dstFire s = false ∧ t = s) := by
  unfold dstSwitch at h
  split at h
  · rename_i hf
    split at h
    · rename_i ha
      split at h
      · cases h
      · exact .inl ⟨hf, ha, ‹_›, by simpa using h.symm⟩
    · rename_i ha
      exact .inr (.inl ⟨hf, by simpa using ha, by simpa using h.symm⟩)
  · rename_i hf
    exact .inr (.inr ⟨by simpa using hf, by simpa using h.symm⟩)

theorem advanceMinute_ok {s t : State} (h : advanceMinute s = .ok t) :
    (s.ct.second = 0 ∧ dstSwitch (rippleMinute s) = .ok t) ∨ (s.ct.second ≠ 0 ∧ t = s) := by
  unfold advanceMinute at h
  split at h
  · exact .inl ⟨‹_›, h⟩
  · exact .inr ⟨‹_›, by simpa using h.symm⟩

theorem rippleMinute_cases (s : State) :
    (60 ≤ s.ct.minute.toNat + 1 ∧ rippleMinute s = { s with ct := { s.ct with minute := 0, hour := s.ct.hour + 1 } }) ∨
    (s.ct.minute.toNat + 1 < 60 ∧ rippleMinute s = { s with ct := { s.ct with minute := s.ct.minute + 1 } }) := by
  unfold rippleMinute
  split
  · exact .inl ⟨‹_›, rfl⟩
  · exact .inr ⟨by omega, rfl⟩

theorem normalizeHour_cases (s : State) :
    (24 ≤ s.ct.hour.toNat ∧
      normalizeHour s = { s with ct := { s.ct with hour := s.ct.hour - 24, day := s.ct.day + 1 } }) ∨
    (s.ct.hour.toNat < 24 ∧ normalizeHour s = s) := by
  unfold normalizeHour
  split
  · exact .inl ⟨‹_›, rfl⟩
  · exact .inr ⟨by omega, rfl⟩

theorem rollYear_cases (s : State) :
    (yearLength s.ct.year < s.ct.day.toNat ∧
      rollYear s = ({ s with ct := { s.ct with day := 1, year := nextYear s.ct.year } }, s.cfg.leapWarn)) ∨
    (s.ct.day.toNat ≤ yearLength s.ct.year ∧ rollYear s = (s, false)) := by
  unfold rollYear
  split
  · exact .inl ⟨‹_›, rfl⟩
  · exact .inr ⟨by omega, rfl⟩

theorem advanceSecond_ok {s t : State} {extra : Bool} (h : advanceSecond s = .ok (t, extra)) :
    ∃ u, advanceMinute (advanceSecondField (armLeap s)) = .ok u ∧ rollYear (normalizeHour u) = (t, extra) := by
  unfold advanceSecond at h
  split at h
  · cases h
  · exact ⟨_, ‹_›, by simpa using h⟩

/-- The registers AdvanceSecond does not write (40_civil_time.md R122). -/
def sameOutsideCivil (s t : State) : Prop :=
  t.cur = s.cur ∧ t.bitIndex = s.bitIndex ∧ t.fault = s.fault ∧ t.fcause = s.fcause ∧ t.findex = s.findex ∧
  t.cfg = s.cfg ∧ t.loaded = s.loaded ∧ t.rc = s.rc ∧ t.out = s.out ∧ t.cmds = s.cmds

theorem sameOutsideCivil_trans {s t u : State} (h : sameOutsideCivil s t) (h' : sameOutsideCivil t u) :
    sameOutsideCivil s u := by
  simp only [sameOutsideCivil] at *
  simp_all

theorem sameOutsideCivil_armLeap (s : State) : sameOutsideCivil s (armLeap s) := by
  obtain ⟨h, -⟩ | ⟨h, -⟩ | h := armLeap_cases s <;> simp [h, sameOutsideCivil]

theorem sameOutsideCivil_advanceSecondField (s : State) : sameOutsideCivil s (advanceSecondField s) := by
  obtain ⟨n, -, h⟩ | ⟨-, h⟩ := advanceSecondField_cases s <;> simp [h, sameOutsideCivil]

theorem sameOutsideCivil_rippleMinute (s : State) : sameOutsideCivil s (rippleMinute s) := by
  obtain ⟨-, h⟩ | ⟨-, h⟩ := rippleMinute_cases s <;> simp [h, sameOutsideCivil]

theorem sameOutsideCivil_dstSwitch {s t : State} (h : dstSwitch s = .ok t) : sameOutsideCivil s t := by
  obtain ⟨-, -, -, rfl⟩ | ⟨-, -, rfl⟩ | ⟨-, rfl⟩ := dstSwitch_ok h <;> simp [sameOutsideCivil]

theorem sameOutsideCivil_advanceMinute {s t : State} (h : advanceMinute s = .ok t) : sameOutsideCivil s t := by
  obtain ⟨-, h⟩ | ⟨-, rfl⟩ := advanceMinute_ok h
  · exact sameOutsideCivil_trans (sameOutsideCivil_rippleMinute s) (sameOutsideCivil_dstSwitch h)
  · simp [sameOutsideCivil]

theorem sameOutsideCivil_normalizeHour (s : State) : sameOutsideCivil s (normalizeHour s) := by
  obtain ⟨-, h⟩ | ⟨-, h⟩ := normalizeHour_cases s <;> simp [h, sameOutsideCivil]

theorem sameOutsideCivil_rollYear (s : State) : sameOutsideCivil s (rollYear s).1 := by
  obtain ⟨-, h⟩ | ⟨-, h⟩ := rollYear_cases s <;> simp [h, sameOutsideCivil]

/-- AdvanceSecond writes the civil-time, leap, DST and offset registers only. -/
theorem sameOutsideCivil_advanceSecond {s t : State} {extra : Bool} (h : advanceSecond s = .ok (t, extra)) :
    sameOutsideCivil s t := by
  obtain ⟨u, hu, ht⟩ := advanceSecond_ok h
  have arm := sameOutsideCivil_trans (sameOutsideCivil_armLeap s) (sameOutsideCivil_advanceSecondField _)
  have minute := sameOutsideCivil_trans arm (sameOutsideCivil_advanceMinute hu)
  have hour := sameOutsideCivil_trans minute (sameOutsideCivil_normalizeHour u)
  have year := sameOutsideCivil_trans hour (sameOutsideCivil_rollYear _)
  rwa [ht] at year

end Sys2Proof.Machine
end

