-- ==== Sys2Proof/Laws/Ops.lean ====
section
/-! SUPPORT. What each shared operation of Machine/Ops.lean can do, said once: if it answers a next state, then one of
the cases named here holds. Later proofs cite these and unfold nothing. -/

namespace Sys2Proof.Machine

@[simp] theorem raise_eq (c : FaultCause) (s : State) : raise c s = .next (s.raised c) := rfl

@[simp] theorem send_eq (k : PulseKind) (b : Bool) (s : State) : send k b s = .next (s.emitAll (sendGroup s k b)) := rfl

@[simp] theorem sendGroup_cursorLeft (s : State) (k : PulseKind) (b : Bool) :
    sendGroup s.cursorLeft k b = sendGroup s k b := rfl

@[simp] theorem position_cursorLeft (s : State) : position s.cursorLeft = position s := rfl

@[simp] theorem activeBuffer_cursorLeft (s : State) : activeBuffer s.cursorLeft = activeBuffer s := rfl

theorem ifAdmitted_of_admitted {i : Instr} {s : State} (h : admitted s.cfg.fmt i = true) (run : Result) :
    ifAdmitted i s run = run := by
  simp [ifAdmitted, h]

theorem ifAdmitted_of_not_admitted {i : Instr} {s : State} (h : admitted s.cfg.fmt i = false) (run : Result) :
    ifAdmitted i s run = .next (s.raised .formatFault) := by
  simp [ifAdmitted, h]

theorem ifAdmitted_next {i : Instr} {s t : State} {run : Result} (h : ifAdmitted i s run = .next t) :
    (admitted s.cfg.fmt i = true ∧ run = .next t) ∨
    (admitted s.cfg.fmt i = false ∧ t = s.raised .formatFault) := by
  unfold ifAdmitted at h
  split at h
  · exact .inl ⟨‹_›, h⟩
  · rename_i hn
    exact .inr ⟨by simpa using hn, by simpa using h.symm⟩

theorem withKind_next {arg : BitVec 4} {s t : State} {run : PulseKind → Result} (h : withKind arg s run = .next t) :
    (∃ k, kindOfArg arg = some k ∧ run k = .next t) ∨ (kindOfArg arg = none ∧ t = s.raised .argFault) := by
  unfold withKind at h
  split at h
  · exact .inl ⟨_, ‹_›, h⟩
  · exact .inr ⟨‹_›, by simpa using h.symm⟩

theorem withDecrement_next {s t : State} {run : State → Result} (h : withDecrement s run = .next t) :
    (s.cur ≠ 0 ∧ run s.cursorLeft = .next t) ∨ (s.cur = 0 ∧ t = s.raised .cursorUnderrun) := by
  unfold withDecrement at h
  split at h
  · exact .inr ⟨‹_›, by simpa using h.symm⟩
  · exact .inl ⟨‹_›, h⟩

theorem withDigit_next {s t : State} {run : Digit → Result} (h : withDigit s run = .next t) :
    ∃ d, bufRead s s.cur.toNat = some d ∧ run d = .next t := by
  unfold withDigit at h
  split at h
  · exact ⟨_, ‹_›, h⟩
  · cases h

/-- The argument of the kind form names a pulse iff it is legal (30_encoding.md R83, R88). -/
theorem kindOfArg_isSome (arg : BitVec 4) : (kindOfArg arg).isSome = kindLegal arg := by
  revert arg; decide

theorem decrement_toNat {s : State} (h : s.cur ≠ 0) : (s.cur - 1).toNat + 1 = s.cur.toNat := by
  have := s.cur.isLt
  have : s.cur.toNat ≠ 0 := fun e => h (BitVec.eq_of_toNat_eq (by simpa using e))
  rw [BitVec.toNat_sub_of_le (by simp [BitVec.le_def]; omega)]
  simp; omega

/-- The buffers have 9 and 22 digits, so an index up to the active buffer's last index reads a digit (R66). -/
theorem activeBuffer_length (s : State) : (activeBuffer s).length = (lastIndex s.cfg.fmt).toNat + 1 := by
  unfold activeBuffer lastIndex
  split
  · simp [irigBuffer, hex5, dayTimeDigits, yearDigits]; split <;> rfl
  · simp [wwvBuffer]

theorem bufRead_of_le {s : State} {i : Nat} (h : i ≤ (lastIndex s.cfg.fmt).toNat) : ∃ d, bufRead s i = some d := by
  have : i < (activeBuffer s).length := by rw [activeBuffer_length]; omega
  exact ⟨_, List.getElem?_eq_getElem this⟩

end Sys2Proof.Machine
end

