-- ==== Sys2Proof/Laws/Exec.lean ====
section
/-! SUPPORT. What an operation can do, over all thirteen: one inversion lemma, and the stops it cannot make. -/

namespace Sys2Proof.Machine

/-- The one pulse group an operation emits (42_pulse_ops.md R175, R188). -/
def entryGroup (s : State) (ps : List PulseSpec) : Prop :=
  (∃ k b, ps = sendGroup s k b) ∨ (s.cfg.fmt.irig = false ∧ ps = wwvMarker s)

/-- Everything an operation can do when it answers a next state: raise a named fault, or emit one pulse group, with or
without the cursor moved one digit left. -/
theorem exec_next_cases {i : Instr} {s t : State} (h : exec i s = .next t) :
    (∃ c, c ≠ .none ∧ t = s.raised c) ∨
    ∃ ps, entryGroup s ps ∧ (t = s.emitAll ps ∨ (s.cur ≠ 0 ∧ t = s.cursorLeft.emitAll ps)) := by
  have stay : ∀ {k b}, send k b s = .next t →
      ∃ ps, entryGroup s ps ∧ (t = s.emitAll ps ∨ (s.cur ≠ 0 ∧ t = s.cursorLeft.emitAll ps)) :=
    fun {k b} e => ⟨_, .inl ⟨k, b, rfl⟩, .inl (by simpa using e.symm)⟩
  have left : ∀ {k b}, s.cur ≠ 0 → send k b s.cursorLeft = .next t →
      ∃ ps, entryGroup s ps ∧ (t = s.emitAll ps ∨ (s.cur ≠ 0 ∧ t = s.cursorLeft.emitAll ps)) :=
    fun {k b} hc e => ⟨_, .inl ⟨k, b, rfl⟩, .inr ⟨hc, by simpa using e.symm⟩⟩
  cases i <;> (obtain ⟨ha, h⟩ | ⟨-, rfl⟩ := ifAdmitted_next h) <;> try exact .inl ⟨_, by simp, rfl⟩
  case sendData =>
    obtain ⟨k, -, h⟩ | ⟨-, rfl⟩ := withKind_next h
    · exact .inr (stay h)
    · exact .inl ⟨_, by simp, rfl⟩
  case sendDataNoTick =>
    obtain ⟨k, -, h⟩ | ⟨-, rfl⟩ := withKind_next h
    · exact .inr (stay h)
    · exact .inl ⟨_, by simp, rfl⟩
  case sendCoefficientBit =>
    obtain ⟨d, -, h⟩ := withDigit_next h
    exact .inr (stay h)
  case decrementSendBit =>
    obtain ⟨hc, h⟩ | ⟨-, rfl⟩ := withDecrement_next h
    · obtain ⟨d, -, h⟩ := withDigit_next h
      exact .inr (left hc h)
    · exact .inl ⟨_, by simp, rfl⟩
  case decrementSendPI =>
    obtain ⟨hc, h⟩ | ⟨-, rfl⟩ := withDecrement_next h
    · exact .inr (left hc h)
    · exact .inl ⟨_, by simp, rfl⟩
  case decrementSendZero =>
    obtain ⟨hc, h⟩ | ⟨-, rfl⟩ := withDecrement_next h
    · exact .inr (left hc h)
    · exact .inl ⟨_, by simp, rfl⟩
  case decrementNoTickPI =>
    obtain ⟨hc, h⟩ | ⟨-, rfl⟩ := withDecrement_next h
    · exact .inr (left hc h)
    · exact .inl ⟨_, by simp, rfl⟩
  case minuteMarker =>
    have hi : s.cfg.fmt.irig = false := by simpa [admitted, admittedInIrig] using ha
    exact .inr ⟨_, .inr ⟨hi, rfl⟩, .inl (by simpa using h.symm)⟩
  all_goals exact .inr (stay h)

/-- No operation refuses, and the only stop of the model is a buffer read past the end (20_memory.md R66). -/
theorem exec_stops (i : Instr) (s : State) :
    (∃ t, exec i s = .next t) ∨ exec i s = .fault .bufferIndex := by
  have digit : ∀ (u : State) (run : Digit → State), (∃ t, withDigit u (fun d => .next (run d)) = .next t) ∨
      withDigit u (fun d => .next (run d)) = .fault .bufferIndex := by
    intro u run; unfold withDigit; split <;> simp
  cases i <;>
    simp only [exec, execSendData, execSendDataNoTick, execSendCoefficientBit, execDecrementSendPI,
      execDecrementSendBit, execDecrementSendZero, execNoDecrementPI, execDecrementNoTickPI, execMinuteMarker,
      execLeapWarningBit, execDut1Bit, execDst1Bit, execDst2Bit, ifAdmitted, withKind, withDecrement, raise_eq,
      send_eq] <;>
    split <;> try exact .inl ⟨_, rfl⟩
  case sendData.isTrue => split <;> exact .inl ⟨_, rfl⟩
  case sendDataNoTick.isTrue => split <;> exact .inl ⟨_, rfl⟩
  case sendCoefficientBit.isTrue => exact digit s _
  case decrementSendPI.isTrue => split <;> exact .inl ⟨_, rfl⟩
  case decrementSendBit.isTrue => split; exacts [.inl ⟨_, rfl⟩, digit _ _]
  case decrementSendZero.isTrue => split <;> exact .inl ⟨_, rfl⟩
  case decrementNoTickPI.isTrue => split <;> exact .inl ⟨_, rfl⟩

/-- With the cursor inside the active buffer every operation answers a next state. -/
theorem exec_answers_of_cursor {i : Instr} {s : State} (h : s.cur.toNat ≤ (lastIndex s.cfg.fmt).toNat) :
    ∃ t, exec i s = .next t := by
  obtain ht | hf := exec_stops i s
  · exact ht
  · exfalso
    have read : ∀ u : State, u.cur.toNat ≤ (lastIndex u.cfg.fmt).toNat → ∀ run : Digit → State,
        withDigit u (fun d => .next (run d)) ≠ .fault .bufferIndex := by
      intro u hu run e
      obtain ⟨d, hd⟩ := bufRead_of_le (s := u) hu
      simp [withDigit, hd] at e
    cases i <;>
      simp only [exec, execSendData, execSendDataNoTick, execSendCoefficientBit, execDecrementSendPI,
        execDecrementSendBit, execDecrementSendZero, execNoDecrementPI, execDecrementNoTickPI, execMinuteMarker,
        execLeapWarningBit, execDut1Bit, execDst1Bit, execDst2Bit, ifAdmitted, withKind, withDecrement, raise_eq,
        send_eq] at hf <;>
      split at hf <;> try cases hf
    case sendData.isTrue => split at hf <;> cases hf
    case sendDataNoTick.isTrue => split at hf <;> cases hf
    case sendCoefficientBit.isTrue => exact read s h _ hf
    case decrementSendPI.isTrue => split at hf <;> cases hf
    case decrementSendBit.isTrue =>
      split at hf
      · cases hf
      · rename_i hc
        have := decrement_toNat hc
        exact read s.cursorLeft (by simp; omega) _ hf
    case decrementSendZero.isTrue => split at hf <;> cases hf
    case decrementNoTickPI.isTrue => split at hf <;> cases hf

end Sys2Proof.Machine
end

