-- ==== Sys2Proof/Laws/Memory.lean ====
section
/-! SUPPORT. The canonical form of the tables is kept by every operation that makes a memory, and the read-after-write
laws of one byte. -/

namespace Sys2Proof.Machine

theorem cellProper_of_default {a : Nat} {b d : Byte} (h : defaultByte a = some d) (hb : b ≠ d) :
    cellProper (a, b) = true := by
  simp [cellProper, h, hb]

theorem risingFrom_some_iff (l : Nat) (m : Memory) :
    risingFrom (some l) m = true ↔ risingFrom none m = true ∧ ∀ c ∈ m.head?, l < c.1 := by
  cases m <;> simp [risingFrom, and_comm]

theorem risingFrom_mono {l l' : Nat} {m : Memory} (h : risingFrom (some l) m = true) (hl : l' ≤ l) :
    risingFrom (some l') m = true := by
  cases m with
  | nil => rfl
  | cons c m =>
    simp only [risingFrom, Bool.and_eq_true, decide_eq_true_eq] at h ⊢
    exact ⟨by omega, h.2⟩

theorem risingFrom_eraseCell {l a : Nat} {m : Memory} (h : risingFrom (some l) m = true) :
    risingFrom (some l) (eraseCell a m) = true := by
  induction m generalizing l with
  | nil => rfl
  | cons c m ih =>
    simp only [risingFrom, Bool.and_eq_true, decide_eq_true_eq] at h
    unfold eraseCell
    split
    · exact risingFrom_mono h.2 (by omega)
    · simp [risingFrom, h.1, ih h.2]

theorem risingFrom_insertCell {l a : Nat} {b : Byte} {m : Memory} (h : risingFrom (some l) m = true) (hl : l < a) :
    risingFrom (some l) (insertCell a b m) = true := by
  induction m generalizing l with
  | nil => simp [insertCell, risingFrom, hl]
  | cons c m ih =>
    simp only [risingFrom, Bool.and_eq_true, decide_eq_true_eq] at h
    unfold insertCell
    split
    · simp [risingFrom, h.2, *]
    · split
      · subst_vars; simp [risingFrom, h.1, h.2]
      · simp [risingFrom, h.1, ih h.2 (by omega)]

theorem risingFrom_none_iff_zero {m : Memory} :
    risingFrom none m = true ↔ m = [] ∨ ∃ c n, m = c :: n ∧ risingFrom (some c.1) n = true := by
  cases m <;> simp [risingFrom]

theorem risingFrom_none_eraseCell {a : Nat} {m : Memory} (h : risingFrom none m = true) :
    risingFrom none (eraseCell a m) = true := by
  cases m with
  | nil => rfl
  | cons c m =>
    simp only [risingFrom] at h
    unfold eraseCell
    split
    · exact ((risingFrom_some_iff _ _).1 h).1
    · simpa [risingFrom] using risingFrom_eraseCell h

theorem risingFrom_none_insertCell {a : Nat} {b : Byte} {m : Memory} (h : risingFrom none m = true) :
    risingFrom none (insertCell a b m) = true := by
  cases m with
  | nil => rfl
  | cons c m =>
    simp only [risingFrom] at h
    unfold insertCell
    split
    · simp [risingFrom, *]
    · split
      · subst_vars; simpa [risingFrom] using h
      · simpa [risingFrom] using risingFrom_insertCell h (by omega)

theorem all_eraseCell {a : Nat} {m : Memory} (h : m.all cellProper = true) :
    (eraseCell a m).all cellProper = true := by
  induction m with
  | nil => rfl
  | cons c m ih =>
    simp only [List.all_cons, Bool.and_eq_true] at h
    unfold eraseCell
    split <;> simp_all

theorem all_insertCell {a : Nat} {b : Byte} {m : Memory} (h : m.all cellProper = true)
    (hc : cellProper (a, b) = true) : (insertCell a b m).all cellProper = true := by
  induction m with
  | nil => simp [insertCell, hc]
  | cons c m ih =>
    simp only [List.all_cons, Bool.and_eq_true] at h
    unfold insertCell
    split
    · simp_all
    · split <;> simp_all

/-- The empty list, the default tables, is canonical. -/
theorem memory_wf_nil : Memory.wf [] = true := rfl

/-- A write keeps the canonical form. -/
theorem memory_wf_write {m : Memory} (h : Memory.wf m = true) (a : Nat) (b : Byte) :
    Memory.wf (Memory.write m a b) = true := by
  simp only [Memory.wf, Bool.and_eq_true] at h ⊢
  unfold Memory.write
  split
  · exact h
  · rename_i d hd
    split
    · exact ⟨risingFrom_none_eraseCell h.1, all_eraseCell h.2⟩
    · exact ⟨risingFrom_none_insertCell h.1, all_insertCell h.2 (cellProper_of_default hd ‹_›)⟩

/-- Setting one table entry keeps the canonical form. -/
theorem memory_wf_tblWrite {m : Memory} (h : Memory.wf m = true) (t : TableSpace) (i : Nat) (b : Byte) :
    Memory.wf (tblWrite m t i b) = true := by
  unfold tblWrite
  split
  · exact h
  · exact memory_wf_write h _ _

theorem lookupCell_of_lt {l a : Nat} {m : Memory} (h : risingFrom (some l) m = true) (ha : a ≤ l) :
    lookupCell a m = none := by
  induction m generalizing l with
  | nil => rfl
  | cons c m ih =>
    simp only [risingFrom, Bool.and_eq_true, decide_eq_true_eq] at h
    simp only [lookupCell, show c.1 ≠ a by omega, if_false]
    exact ih h.2 (by omega)

theorem lookupCell_eraseCell {a a' : Nat} {m : Memory} (h : risingFrom none m = true) :
    lookupCell a' (eraseCell a m) = if a' = a then none else lookupCell a' m := by
  induction m with
  | nil => simp [eraseCell, lookupCell]
  | cons c m ih =>
    simp only [risingFrom] at h
    have hm := ((risingFrom_some_iff _ _).1 h).1
    by_cases hc : c.1 = a
    · by_cases ha : a' = a
      · simp [eraseCell, hc, ha, lookupCell_of_lt h (show a ≤ c.1 by omega)]
      · simp [eraseCell, lookupCell, hc, ha, show ¬ a = a' by omega]
    · by_cases ha : a' = a
      · subst ha; simpa [eraseCell, lookupCell, hc] using ih hm
      · simp [eraseCell, lookupCell, hc, ha, ih hm]

theorem lookupCell_insertCell {a a' : Nat} {b : Byte} {m : Memory} :
    lookupCell a' (insertCell a b m) = if a' = a then some b else lookupCell a' m := by
  induction m with
  | nil => simp [insertCell, lookupCell, eq_comm]
  | cons c m ih =>
    unfold insertCell
    split
    · simp [lookupCell, eq_comm]
    · split
      · by_cases ha : a' = a
        · simp [lookupCell, ha]
        · simp [lookupCell, ha, show ¬ a = a' by omega, show ¬ c.1 = a' by omega]
      · by_cases ha : a' = a
        · subst ha; simpa [lookupCell, show ¬ c.1 = a' by omega] using ih
        · simp [lookupCell, ih, ha]

/-- Reading one byte after a write: the written byte at its address, the old byte everywhere else. -/
theorem memory_read_write {m : Memory} (h : Memory.wf m = true) (a a' : Nat) (b : Byte) :
    Memory.read (Memory.write m a b) a' =
      if a' = a then (defaultByte a).map (fun _ => b) else Memory.read m a' := by
  simp only [Memory.wf, Bool.and_eq_true] at h
  unfold Memory.write Memory.read
  split
  · rename_i hd; split
    · subst_vars; simp [hd]
    · rfl
  · rename_i d hd
    split
    · rw [lookupCell_eraseCell h.1]; split <;> simp_all
    · rw [lookupCell_insertCell]; split <;> simp_all

/-- Every address of a table is below the size of the image, so it exists. -/
theorem defaultByte_isSome_iff (a : Nat) : (defaultByte a).isSome = decide (a < 111) := by
  have : defaultImage.length = 111 := by decide
  rw [Bool.eq_iff_iff, decide_eq_true_eq, ← this, defaultByte, Option.isSome_iff_ne_none, ne_eq,
    List.getElem?_eq_none_iff, not_le]

/-- `TblRead` answers exactly within the table's index range (20_memory.md R63, R64). -/
theorem tblRead_isSome (m : Memory) (t : TableSpace) (i : Nat) : (tblRead m t i).isSome = decide (i < t.size) := by
  unfold tblRead tableAddr
  by_cases h : i < t.size
  · have : t.base + i < 111 := by cases t <;> simp [TableSpace.size, TableSpace.base] at * <;> omega
    simp [h, Memory.read, defaultByte_isSome_iff, this]
  · simp [h]

/-- The entry just set reads back, within the table's range. -/
theorem tblRead_tblWrite_same {m : Memory} (h : Memory.wf m = true) {t : TableSpace} {i : Nat} (hi : i < t.size)
    (b : Byte) : tblRead (tblWrite m t i b) t i = some b := by
  have ha : t.base + i < 111 := by cases t <;> simp [TableSpace.size, TableSpace.base] at * <;> omega
  have hd : (defaultByte (t.base + i)).isSome = true := by simp [defaultByte_isSome_iff, ha]
  obtain ⟨d, hd⟩ := Option.isSome_iff_exists.1 hd
  simp [tblRead, tblWrite, tableAddr, hi, memory_read_write h, hd]

/-- With no cell listed, every read gives the default contents. -/
theorem memory_read_nil (a : Nat) : Memory.read [] a = defaultByte a := by
  cases h : defaultByte a <;> simp [Memory.read, lookupCell, h]

end Sys2Proof.Machine
end

