-- ==== Sys2Proof/Laws/PerInstr.lean ====
section
/-! SUPPORT. Per-instruction families over Instr as syntax (LAWS.json). `EncodedFields`: the byte of an entry holds its
operation number in bits 7:4 and its argument in bits 3:0, and the number is one of the thirteen (30_encoding.md R80,
R82). -/

namespace Sys2Proof.Laws

def EncodedFields.Statement (i : Instr) : Prop :=
  opField (encode i) = opcode i ∧ argField (encode i) = argument i ∧ (opcode i).toNat ≤ 12 ∧
  (argIgnored i = true → argument i = 0)

theorem fields_of_append (op arg : BitVec 4) : opField (op ++ arg) = op ∧ argField (op ++ arg) = arg := by
  revert op arg; decide

theorem EncodedFields.sendData (kind : BitVec 4) : EncodedFields.Statement (.sendData kind) :=
  ⟨(fields_of_append _ _).1, (fields_of_append _ _).2, by simp [opcode], by simp [argIgnored]⟩

theorem EncodedFields.sendDataNoTick (kind : BitVec 4) : EncodedFields.Statement (.sendDataNoTick kind) :=
  ⟨(fields_of_append _ _).1, (fields_of_append _ _).2, by simp [opcode], by simp [argIgnored]⟩

theorem EncodedFields.sendCoefficientBit (mask : BitVec 4) : EncodedFields.Statement (.sendCoefficientBit mask) :=
  ⟨(fields_of_append _ _).1, (fields_of_append _ _).2, by simp [opcode], by simp [argIgnored]⟩

theorem EncodedFields.decrementSendPI : EncodedFields.Statement .decrementSendPI :=
  ⟨(fields_of_append _ _).1, (fields_of_append _ _).2, by decide, fun _ => rfl⟩

theorem EncodedFields.decrementSendBit (mask : BitVec 4) : EncodedFields.Statement (.decrementSendBit mask) :=
  ⟨(fields_of_append _ _).1, (fields_of_append _ _).2, by simp [opcode], by simp [argIgnored]⟩

theorem EncodedFields.decrementSendZero : EncodedFields.Statement .decrementSendZero :=
  ⟨(fields_of_append _ _).1, (fields_of_append _ _).2, by decide, fun _ => rfl⟩

theorem EncodedFields.noDecrementPI : EncodedFields.Statement .noDecrementPI :=
  ⟨(fields_of_append _ _).1, (fields_of_append _ _).2, by decide, fun _ => rfl⟩

theorem EncodedFields.decrementNoTickPI : EncodedFields.Statement .decrementNoTickPI :=
  ⟨(fields_of_append _ _).1, (fields_of_append _ _).2, by decide, fun _ => rfl⟩

theorem EncodedFields.minuteMarker : EncodedFields.Statement .minuteMarker :=
  ⟨(fields_of_append _ _).1, (fields_of_append _ _).2, by decide, fun _ => rfl⟩

theorem EncodedFields.leapWarningBit : EncodedFields.Statement .leapWarningBit :=
  ⟨(fields_of_append _ _).1, (fields_of_append _ _).2, by decide, fun _ => rfl⟩

theorem EncodedFields.dut1Bit (mask : BitVec 4) : EncodedFields.Statement (.dut1Bit mask) :=
  ⟨(fields_of_append _ _).1, (fields_of_append _ _).2, by simp [opcode], by simp [argIgnored]⟩

theorem EncodedFields.dst1Bit : EncodedFields.Statement .dst1Bit :=
  ⟨(fields_of_append _ _).1, (fields_of_append _ _).2, by decide, fun _ => rfl⟩

theorem EncodedFields.dst2Bit : EncodedFields.Statement .dst2Bit :=
  ⟨(fields_of_append _ _).1, (fields_of_append _ _).2, by decide, fun _ => rfl⟩

end Sys2Proof.Laws
end

