-- ==== Sys2Proof/Laws/Sequencer.lean ====
section
/-! SUPPORT. What the fetch, one entry and the IRIG-B loop can do. The loop's induction is packaged once. -/

namespace Sys2Proof.Machine

/-- The effects one entry can have on the state it runs in. -/
def entryEffect (s t : State) : Prop :=
  (∃ c, c ≠ .none ∧ t = s.raised c) ∨
  ∃ ps, entryGroup s ps ∧ (t = s.emitAll ps ∨ (s.cur ≠ 0 ∧ t = s.cursorLeft.emitAll ps))

theorem execEntry_next {e : Byte} {s t : State} (h : execEntry e s = .next t) : entryEffect s t := by
  unfold execEntry at h
  split at h
  · exact exec_next_cases h
  · exact .inl ⟨.opFault, by simp, by simpa using h.symm⟩

theorem runEntry_next {tb : TableSpace} {i : Nat} {s t : State} (h : runEntry tb i s = .next t) :
    ∃ e, tblRead s.cfg.tables tb i = some e ∧ execEntry e s = .next t := by
  unfold runEntry at h
  split at h
  · exact ⟨_, ‹_›, h⟩
  · cases h

theorem runBit_next {b : Nat} {s t : State} (h : runBit b s = .next t) :
    ∃ tb e, frameTable s.cfg.frames (b / 10 + 1) = some tb ∧ tblRead s.cfg.tables tb (b % 10) = some e ∧
      execEntry e (s.atBit b) = .next t := by
  unfold runBit at h
  split at h
  · obtain ⟨e, he, h⟩ := runEntry_next h
    exact ⟨_, e, ‹_›, by simpa using he, h⟩
  · cases h

theorem runBit_effect {b : Nat} {s t : State} (h : runBit b s = .next t) : entryEffect (s.atBit b) t := by
  obtain ⟨_, _, -, -, h⟩ := runBit_next h
  exact execEntry_next h

@[simp] theorem irigSpace_size (t : IrigTable) : (irigSpace t).size = 10 := by cases t <;> rfl

/-- Every frame number of the 100 bit positions has a table, whatever the map (41_format_tables.md R146, 20_memory.md
R64). -/
theorem frameTable_of_lt (m : FrameMap) {b : Nat} (h : b < 100) :
    ∃ tb, frameTable m (b / 10 + 1) = some tb ∧ b % 10 < tb.size := by
  have hq : b / 10 < 10 := by omega
  have hr : b % 10 < 10 := by omega
  generalize b / 10 = q at hq
  interval_cases q <;> exact ⟨_, rfl, by simpa using hr⟩

theorem execEntry_answers {e : Byte} {s : State} (h : s.cur.toNat ≤ (lastIndex s.cfg.fmt).toNat) :
    ∃ t, execEntry e s = .next t := by
  unfold execEntry
  split
  · exact exec_answers_of_cursor h
  · exact ⟨_, rfl⟩

theorem runEntry_answers {tb : TableSpace} {i : Nat} {s : State} (hi : i < tb.size)
    (h : s.cur.toNat ≤ (lastIndex s.cfg.fmt).toNat) : ∃ t, runEntry tb i s = .next t := by
  have := tblRead_isSome s.cfg.tables tb i
  simp only [hi, decide_true] at this
  obtain ⟨e, he⟩ := Option.isSome_iff_exists.1 this
  simpa [runEntry, he] using execEntry_answers h

theorem runBit_answers {b : Nat} {s : State} (hb : b < 100)
    (h : s.cur.toNat ≤ (lastIndex s.cfg.fmt).toNat) : ∃ t, runBit b s = .next t := by
  obtain ⟨tb, ht, hr⟩ := frameTable_of_lt s.cfg.frames hb
  simpa [runBit, ht] using runEntry_answers (s := s.atBit b) hr (by simpa using h)

/-- The loop over bit positions `b` to `e - 1`, once and for all: what holds at `b`, is kept by every bit that raises
nothing, and gives `Q` where a bit raises or the loop ends, gives `Q` of whatever the loop answers. -/
theorem runBits_rule {P : Nat → State → Prop} {Q : State → Prop} (e : Nat)
    (bit : ∀ b s t, b < e → P b s → runBit b s = .next t → t.fault = false → P (b + 1) t)
    (stop : ∀ b s t, b < e → P b s → runBit b s = .next t → t.fault = true → Q t)
    (done : ∀ s, P e s → Q (s.atBit 0)) :
    ∀ n b s t, b + n = e → P b s → runBits n b s = .next t → Q t := by
  intro n
  induction n with
  | zero =>
    intro b s t hb hp h
    obtain rfl : b = e := by omega
    have : s.atBit 0 = t := by simpa [runBits] using h
    exact this ▸ done s hp
  | succ n ih =>
    intro b s t hb hp h
    rw [runBits] at h
    split at h
    · rename_i u hu
      split at h
      · rename_i hf
        obtain rfl : u = t := by simpa using h
        exact stop b s u (by omega) hp hu hf
      · rename_i hf
        exact ih (b + 1) u t (by omega) (bit b s u (by omega) hp hu (by simpa using hf)) h
    · cases h
    · cases h

/-- The loop answers a next state where every bit does. -/
theorem runBits_answers {P : Nat → State → Prop} (e : Nat)
    (answers : ∀ b s, b < e → P b s → ∃ t, runBit b s = .next t)
    (bit : ∀ b s t, b < e → P b s → runBit b s = .next t → t.fault = false → P (b + 1) t) :
    ∀ n b s, b + n = e → P b s → ∃ t, runBits n b s = .next t := by
  intro n
  induction n with
  | zero => exact fun b s _ _ => ⟨_, rfl⟩
  | succ n ih =>
    intro b s hb hp
    obtain ⟨u, hu⟩ := answers b s (by omega) hp
    rw [runBits, hu]
    cases hf : u.fault
    · simpa [hf] using ih (b + 1) u (by omega) (bit b s u (by omega) hp hu hf)
    · exact ⟨u, by simp [hf]⟩

theorem finishTick_next {r : Result} {t : State} (h : finishTick r = .next t) : ∃ u, r = .next u ∧ t = u.endTick := by
  cases r <;> simp [finishTick] at h
  exact ⟨_, rfl, h.symm⟩

end Sys2Proof.Machine
end

