-- ==== Sys2Proof/Laws/Step.lean ====
section
/-! SUPPORT. What encoding a second leaves alone, and what each host command can do. -/

namespace Sys2Proof.Machine

/-- The registers that encoding a second never writes (42_pulse_ops.md R199, 41_format_tables.md R144, R152). -/
def sameOutsideEncoder (s t : State) : Prop :=
  t.cfg = s.cfg ∧ t.ct = s.ct ∧ t.leapState = s.leapState ∧ t.dst = s.dst ∧ t.off = s.off ∧ t.loaded = s.loaded ∧
  t.cmds = s.cmds ∧ t.rc = s.rc

theorem sameOutsideEncoder_trans {s t u : State} (h : sameOutsideEncoder s t) (h' : sameOutsideEncoder t u) :
    sameOutsideEncoder s u := by
  simp only [sameOutsideEncoder] at *
  simp_all

theorem sameOutsideEncoder_of_effect {s t : State} (h : entryEffect s t) : sameOutsideEncoder s t := by
  obtain ⟨c, -, rfl⟩ | ⟨ps, -, rfl | ⟨-, rfl⟩⟩ := h <;> simp [sameOutsideEncoder]

theorem sameOutsideEncoder_runBit {b : Nat} {s t : State} (h : runBit b s = .next t) : sameOutsideEncoder s t :=
  sameOutsideEncoder_trans (t := s.atBit b) (by simp [sameOutsideEncoder]) (sameOutsideEncoder_of_effect (runBit_effect h))

theorem sameOutsideEncoder_runBits {n b : Nat} {s t : State} (h : runBits n b s = .next t) :
    sameOutsideEncoder s t :=
  runBits_rule (P := fun _ u => sameOutsideEncoder s u) (Q := sameOutsideEncoder s) (b + n)
    (fun _ _ _ _ hu hw _ => sameOutsideEncoder_trans hu (sameOutsideEncoder_runBit hw))
    (fun _ _ _ _ hu hw _ => sameOutsideEncoder_trans hu (sameOutsideEncoder_runBit hw))
    (fun _ hu => sameOutsideEncoder_trans hu (by simp [sameOutsideEncoder])) n b s t rfl
    (by simp [sameOutsideEncoder]) h

theorem sameOutsideEncoder_encodeSecond {s t : State} (h : encodeSecond s = .next t) : sameOutsideEncoder s t := by
  unfold encodeSecond at h
  split at h
  · exact sameOutsideEncoder_trans (t := irigPrepare s) (by simp [sameOutsideEncoder]) (sameOutsideEncoder_runBits h)
  · obtain ⟨e, -, h⟩ := runEntry_next h
    exact sameOutsideEncoder_trans (t := wwvPrepare s) (by simp [sameOutsideEncoder])
      (sameOutsideEncoder_of_effect (execEntry_next h))

theorem loadCommand_next {c : Config} {rest : List Command} {t : State} (h : loadCommand c rest = .next t) :
    startLegal c.start = true ∧ codesLegal c = true ∧ t = State.afterLoad c rest := by
  unfold loadCommand at h
  split at h
  · cases h
  · split at h
    · cases h
    · exact ⟨by simpa using ‹¬ startLegal c.start = false›, by simpa using ‹¬ codesLegal c = false›, by simpa using h.symm⟩

/-- A TICK that answers a next state was issued to a loaded TCE with a legal code, and either found it stuck or advanced
the time and encoded the second. -/
theorem tickCommand_next {code : BitVec 2} {s t : State} (h : tickCommand code s = .next t) :
    s.loaded = true ∧ ∃ rc, rcOfCode code = some rc ∧
      ((s.fault = true ∧ t = { s with out := [] }) ∨
       (s.fault = false ∧ ∃ u extra w, advanceSecond (s.beginTick rc) = .ok (u, extra) ∧
          encodeSecond (emitExtra extra u) = .next w ∧ t = w.endTick)) := by
  unfold tickCommand at h
  split at h
  · cases h
  rename_i hl
  split at h
  · cases h
  rename_i rc hr
  refine ⟨by simpa using hl, rc, hr, ?_⟩
  split at h
  · exact .inl ⟨‹_›, by simpa using h.symm⟩
  · rename_i hf
    obtain ⟨w, hw, rfl⟩ := finishTick_next h
    unfold runTick at hw
    split at hw
    · cases hw
    · exact .inr ⟨by simpa using hf, _, _, w, ‹_›, hw, rfl⟩

theorem run_next (n : Nat) {s t : State} (h : step s = .next t) :
    Host.Core.run Sys2Proof.core (n + 1) s = Host.Core.run Sys2Proof.core n t := by
  have h' : Sys2Proof.core.step s = Host.Outcome.next t := h
  simp only [Host.Core.run, h']

end Sys2Proof.Machine
end

