-- ==== Sys2Proof/Tests/Slice0.lean ====
section
/-! SUPPORT. Tests and witnesses. Expected values are those of the spec: 95_test_vectors.md, the examples of the rules,
44_parity.md R254. A `witness_<Name>` theorem shows a state and operands that meet the hypotheses of
`Obligations.<Name>`, each clause at a boundary where it has one. -/

namespace Sys2Proof.Tests

open Sys2Proof.Machine Sys2Proof.Spec

/-! ## Builders -/

/-- A WWV configuration with a start value, defaults otherwise. -/
def wwvAt (t : CivilTime) : Config := { defaultConfig with start := t }

/-- The same start value in IRIG-B format with IEEE-1344. -/
def ieeeAt (t : CivilTime) : Config := { wwvAt t with fmt := Selector.format .irigIeee1344 }

/-- The state after a LOAD of `c` with one TICK (rc port code given) to come. -/
def ready (c : Config) (code : BitVec 2) : State := State.afterLoad c [.tick code]

/-- The next state of a result; the given one where it stops. -/
def nextOf (r : Result) (d : State) : State :=
  match r with
  | .next t => t
  | .fault _ => d
  | .refused _ => d

/-- Whether a result is a next state. -/
def isNext (r : Result) : Bool :=
  match r with
  | .next _ => true
  | .fault _ => false
  | .refused _ => false

theorem eq_next {r : Result} (d : State) (h : isNext r = true) : r = .next (nextOf r d) := by
  cases r <;> simp_all [isNext, nextOf]

/-- The state one step after. -/
def after (s : State) : State := nextOf (step s) s

/-- The state one entry after. -/
def ran (i : Instr) (s : State) : State := nextOf (exec i s) s

/-- What AdvanceSecond makes of a state about to run a TICK with rate correction `rc`. -/
def advanced (s : State) (rc : RcMode) : State × Bool :=
  match advanceSecond { s with cmds := [], out := [], rc := rc } with
  | .ok p => p
  | .error _ => (s, false)

/-- A computable form of the invariant. -/
def invCheck (s : State) : Bool :=
  s.loaded &&
  decide (s.ct.year.toNat ≤ 99 ∧ 1 ≤ s.ct.day.toNat ∧ s.ct.day.toNat ≤ yearLength s.ct.year ∧ s.ct.hour.toNat ≤ 23 ∧
    s.ct.minute.toNat ≤ 59 ∧ s.ct.second.toNat ≤ 60) &&
  decide ((s.leapState = .normal ∧ s.ct.second.toNat ≤ 59) ∨ (s.leapState = .zeroAfterInsert ∧ s.ct.second = 60)) &&
  decide (s.dst.target = s.cfg.dst.target ∧
    (s.dst.pend = true → s.cfg.dst.req = true ∧ s.dst.active = s.cfg.dst.active0)) &&
  decide (s.cur.toNat ≤ (lastIndex s.cfg.fmt).toNat) &&
  decide ((s.fault = false ∧ s.fcause = .none ∧ s.findex = 0 ∧ s.bitIndex = 0) ∨
    (s.fault = true ∧ s.fcause ≠ .none ∧ s.findex = position s ∧ s.bitIndex.toNat ≤ 99)) &&
  decide (startLegal s.cfg.start = true ∧ codesLegal s.cfg = true) && Memory.wf s.cfg.tables &&
  decide (s.rc = .none) &&
  s.cmds.all fun k => match k with
    | .load c => Memory.wf c.tables
    | .tick _ => true

theorem inv_of_check {s : State} (h : invCheck s = true) : Inv s := by
  simp only [invCheck, Bool.and_eq_true, decide_eq_true_eq, List.all_eq_true] at h
  obtain ⟨⟨⟨⟨⟨⟨⟨⟨⟨h1, h2⟩, h3⟩, h4⟩, h5⟩, h6⟩, h7⟩, h8⟩, h9⟩, h10⟩ := h
  refine ⟨h1, h2, h3, h4, h5, h6, h7, h8, h9, fun k hk => ?_⟩
  have := h10 k hk
  cases k with
  | load c => exact this
  | tick _ => trivial

/-- The hypotheses of the statements about a TICK hold of a state with one TICK to come, where AdvanceSecond answers. -/
theorem tick_advances {s : State} {code : BitVec 2} {rc : RcMode}
    (h : (s.loaded && !s.fault && decide (s.cmds = [.tick code]) && decide (rcOfCode code = some rc)) = true)
    (ha : (advanceSecond { s with cmds := [], out := [], rc := rc }).isOk = true) :
    tickAdvances s rc [] (advanced s rc).1 (advanced s rc).2 := by
  simp only [Bool.and_eq_true, Bool.not_eq_true', decide_eq_true_eq] at h
  refine ⟨h.1.1.1, h.1.1.2, ⟨code, h.1.2, h.2⟩, ?_⟩
  unfold advanced
  cases e : advanceSecond { s with cmds := [], out := [], rc := rc } with
  | ok p => rfl
  | error r => rw [e] at ha; cases ha

/-! ## Well-formedness (30_encoding.md R88) -/

theorem test_wf_refuses_sendData_3 : (Instr.sendData 3).wf = false := by decide
theorem test_wf_refuses_sendDataNoTick_15 : (Instr.sendDataNoTick 15).wf = false := by decide
theorem test_wf_accepts_pi : (Instr.sendData 2).wf = true ∧ (Instr.dut1Bit 15).wf = true := by decide

/-! ## Decoding: words of 30_encoding.md R82, R92 and 95_test_vectors.md 2.2, bit by bit -/

theorem test_decode_sendData : decode 0b00000010#8 = .ok (.sendData 2) := by decide
theorem test_decode_sendDataNoTick : decode 0b00010010#8 = .ok (.sendDataNoTick 2) := by decide
theorem test_decode_sendCoefficientBit : decode 0b00101000#8 = .ok (.sendCoefficientBit 8) := by decide
theorem test_decode_decrementSendPI : decode 0b00110000#8 = .ok .decrementSendPI := by decide
theorem test_decode_decrementSendBit : decode 0b01000001#8 = .ok (.decrementSendBit 1) := by decide
theorem test_decode_decrementSendZero : decode 0b01010000#8 = .ok .decrementSendZero := by decide
theorem test_decode_noDecrementPI : decode 0b01100000#8 = .ok .noDecrementPI := by decide
theorem test_decode_decrementNoTickPI : decode 0b01110000#8 = .ok .decrementNoTickPI := by decide
theorem test_decode_minuteMarker : decode 0b10000000#8 = .ok .minuteMarker := by decide
theorem test_decode_leapWarningBit : decode 0b10010000#8 = .ok .leapWarningBit := by decide
theorem test_decode_dut1Bit : decode 0b10101000#8 = .ok (.dut1Bit 8) := by decide
theorem test_decode_dst1Bit : decode 0b10110000#8 = .ok .dst1Bit := by decide
theorem test_decode_dst2Bit : decode 0b11000000#8 = .ok .dst2Bit := by decide
theorem test_decode_stray_argument : decode 0b00110111#8 = .ok .decrementSendPI := by decide
theorem test_decode_rejects_13 : decode 0b11010000#8 = .error (.illegalOperation 13) := by decide
theorem test_assembly_notation : assembly (.sendData 2) = some "SendData pi" ∧ assembly (.dut1Bit 8) = some "Dut1Bit 8" ∧
    assembly .dst2Bit = some "Dst2Bit" ∧ assembly (.sendData 3) = none := by decide
theorem test_decodeTableWord : decodeTableWord 8 0xC0 = some .dst2Bit ∧ decodeTableWord 8 0xD0 = none ∧
    decodeTableWord 16 0xC0 = none := by decide

/-! ## One entry (examples of 42_pulse_ops.md R180 to R193) -/

/-- WWV, 24/001 00:00, cursor 8. -/
def wwv24 : State := State.afterLoad (wwvAt ⟨24, 1, 0, 0, 5⟩) []

/-- IRIG-B at bit `b` with the cursor at `c`: 26/173 12:34:56 with the flags of 44_parity.md R254's third line. -/
def irig26 (b : BitVec 7) (c : BitVec 5) : State :=
  let cfg := { ieeeAt ⟨26, 173, 12, 34, 56⟩ with
    leap := ⟨true, false, ⟨26, 173, 12, 34⟩⟩, dst := ⟨false, true, defaultTarget⟩, off := ⟨true, 5, true⟩, tq := 5 }
  { State.afterLoad cfg [] with bitIndex := b, cur := c }

theorem test_sendData_pi : (ran (.sendData 2) wwv24).out =
    [⟨5, 1000, .high⟩, ⟨25, 0, .off⟩, ⟨770, 100, .low⟩, ⟨200, 0, .off⟩] := by decide
theorem test_sendDataNoTick_pi : (ran (.sendDataNoTick 2) wwv24).out =
    [⟨30, 0, .off⟩, ⟨770, 100, .low⟩, ⟨200, 0, .off⟩] := by decide
theorem test_sendDataNoTick_irig : (ran (.sendDataNoTick 7) (irig26 5 20)).fcause = .formatFault := by decide
theorem test_sendCoefficientBit : (ran (.sendCoefficientBit 4) wwv24).out =
    [⟨5, 1000, .high⟩, ⟨25, 0, .off⟩, ⟨570, 100, .low⟩, ⟨400, 0, .off⟩] := by decide
theorem test_decrementSendPI : (ran .decrementSendPI (irig26 9 20)).out = [⟨8, 1000, .high⟩, ⟨2, 1000, .low⟩] ∧
    (ran .decrementSendPI (irig26 9 20)).cur = 19 := by decide
theorem test_decrementSendBit : (ran (.decrementSendBit 1) (irig26 64 9)).out = [⟨5, 1000, .high⟩, ⟨5, 1000, .low⟩] ∧
    (ran (.decrementSendBit 1) (irig26 64 9)).cur = 8 := by decide +kernel
theorem test_decrementSendBit_underrun : (ran (.decrementSendBit 1) (irig26 99 0)).fcause = .cursorUnderrun ∧
    (ran (.decrementSendBit 1) (irig26 99 0)).findex = 99 := by decide
theorem test_decrementSendZero : (ran .decrementSendZero wwv24).out =
    [⟨5, 1000, .high⟩, ⟨25, 0, .off⟩, ⟨170, 100, .low⟩, ⟨800, 0, .off⟩] ∧ (ran .decrementSendZero wwv24).cur = 7 := by decide
theorem test_noDecrementPI : (ran .noDecrementPI (irig26 0 21)).out = [⟨8, 1000, .high⟩, ⟨2, 1000, .low⟩] ∧
    (ran .noDecrementPI (irig26 0 21)).cur = 21 := by decide
theorem test_decrementNoTickPI : (ran .decrementNoTickPI { wwv24 with cur := 4 }).out =
    [⟨30, 0, .off⟩, ⟨770, 100, .low⟩, ⟨200, 0, .off⟩] ∧ (ran .decrementNoTickPI { wwv24 with cur := 4 }).cur = 3 := by decide
theorem test_minuteMarker_hour : (ran .minuteMarker wwv24).out = [⟨800, 1500, .high⟩, ⟨200, 0, .off⟩] := by decide
theorem test_minuteMarker_minute : (ran .minuteMarker { wwv24 with ct := ⟨24, 1, 0, 1, 0⟩ }).out =
    [⟨800, 1000, .high⟩, ⟨200, 0, .off⟩] := by decide
theorem test_leapWarningBit : (ran .leapWarningBit { wwv24 with cfg := { wwv24.cfg with leapWarn := true } }).out =
    [⟨5, 1000, .high⟩, ⟨25, 0, .off⟩, ⟨570, 100, .low⟩, ⟨400, 0, .off⟩] := by decide
theorem test_dut1Bit_masks : ([8, 1, 2, 4] : List (BitVec 4)).map (bitTest 0b1011) = [.one, .one, .one, .zero] := by decide
theorem test_dst1Bit : (ran .dst1Bit { wwv24 with dst := ⟨true, false, defaultTarget⟩ }).out =
    [⟨5, 1000, .high⟩, ⟨25, 0, .off⟩, ⟨570, 100, .low⟩, ⟨400, 0, .off⟩] := by decide
theorem test_dst2Bit : (ran .dst2Bit wwv24).out =
    [⟨5, 1000, .high⟩, ⟨25, 0, .off⟩, ⟨170, 100, .low⟩, ⟨800, 0, .off⟩] := by decide

/-! ## Encoder and parity (44_parity.md R254, 95_test_vectors.md 2.5) -/

theorem test_wwv_buffer : wwvBuffer ⟨24, 366, 23, 59, 59⟩ = [2, 3, 6, 6, 2, 3, 5, 9, 4] := by decide
theorem test_irig_buffer : irigBuffer (irig26 0 21) =
    [0, 0xB, 0, 0xF, 0, 0, 1, 6, 0xB, 9, 2, 6, 0, 1, 7, 3, 1, 2, 3, 4, 5, 6] := by decide +kernel
theorem test_parity_odd : cfWord (State.afterLoad (ieeeAt ⟨24, 1, 0, 0, 0⟩) []) = 0x4000 := by decide +kernel
theorem test_parity_even : cfWord (irig26 0 21) = 0x16B9 ∧ parity (irig26 0 21) = false := by decide +kernel

/-! ## Civil time (95_test_vectors.md 2.1) -/

/-- The D1 vector: DST activation at 24/070 02:00 with offset minus 8 h. -/
def springForward : Config :=
  { wwvAt ⟨24, 70, 1, 59, 59⟩ with dst := ⟨true, false, ⟨24, 70, 2, 0⟩⟩, off := ⟨true, 8, false⟩ }

/-- The D2 vector: deactivation at 24/308 02:00. -/
def fallBack : Config :=
  { wwvAt ⟨24, 308, 1, 59, 59⟩ with dst := ⟨true, true, ⟨24, 308, 2, 0⟩⟩, off := ⟨true, 7, false⟩ }

/-- The L5 vector: insertion at 16/366 23:59. -/
def insertion : Config :=
  { wwvAt ⟨16, 366, 23, 59, 59⟩ with leap := ⟨true, false, ⟨16, 366, 23, 59⟩⟩ }

/-- The L2 vector one second before the deleted second. -/
def deletion : Config :=
  { wwvAt ⟨16, 366, 23, 59, 58⟩ with leap := ⟨false, true, ⟨16, 366, 23, 59⟩⟩ }

theorem test_T3_hour_ripple : (after (ready (wwvAt ⟨24, 1, 0, 59, 59⟩) 0)).ct = ⟨24, 1, 1, 0, 0⟩ := by decide +kernel
theorem test_Y_extra_group : (after (ready { wwvAt ⟨99, 365, 23, 59, 59⟩ with leapWarn := true } 0)).out =
    [⟨5, 1000, .high⟩, ⟨25, 0, .off⟩, ⟨170, 100, .low⟩, ⟨800, 0, .off⟩, ⟨800, 1500, .high⟩, ⟨200, 0, .off⟩] := by
  decide +kernel
theorem test_L5_insertion : (after (ready insertion 0)).ct = ⟨16, 366, 23, 59, 60⟩ ∧
    (after (ready insertion 0)).leapState = .zeroAfterInsert := by decide +kernel
theorem test_L2_deletion : (after (ready deletion 0)).ct = ⟨17, 1, 0, 0, 0⟩ := by decide +kernel
theorem test_D1_activation : (after (ready springForward 0)).ct = ⟨24, 70, 3, 0, 0⟩ ∧
    (after (ready springForward 0)).off = ⟨true, 7, false⟩ := by decide +kernel
theorem test_D2_deactivation : (after (ready fallBack 0)).ct = ⟨24, 308, 1, 0, 0⟩ ∧
    (after (ready fallBack 0)).off = ⟨true, 8, false⟩ := by decide +kernel
theorem test_offset_wraps : offsetInc ⟨false, 15, true⟩ = ⟨true, 7, true⟩ ∧ offsetDec ⟨true, 15, false⟩ = ⟨false, 8, false⟩ ∧
    offsetInc ⟨true, 0, true⟩ = ⟨false, 0, true⟩ := by decide
theorem test_prevMinute : prevMinute ⟨25, 1, 0, 0⟩ = ⟨24, 366, 23, 59⟩ ∧ prevMinute ⟨0, 1, 0, 0⟩ = ⟨99, 365, 23, 59⟩ ∧
    prevMinute ⟨24, 70, 24, 0⟩ = ⟨24, 70, 23, 59⟩ := by decide

/-! ## Faults, host commands, fetch (95_test_vectors.md 2.4, 2.6, 2.7) -/

/-- F4: an entry that breaks the format and the argument rule, at bit 5. -/
def faultyIrig : Config :=
  { ieeeAt ⟨24, 1, 0, 0, 3⟩ with fmt := Selector.format .irig2004, tables := tblWrite [] .irigT1 5 0x17 }

/-- F2: an illegal kind at second 4. -/
def faultyWwv : Config := { wwvAt ⟨24, 1, 0, 0, 3⟩ with tables := tblWrite [] .wwv 4 0x07 }

/-- F8: an illegal operation at second 0 of a leap-warned year rollover. -/
def badRollover : Config := { wwvAt ⟨23, 365, 23, 59, 59⟩ with leapWarn := true, tables := tblWrite [] .wwv 0 0xE0 }

/-- F5: an illegal operation at bit 5. -/
def badIrig : Config := { ieeeAt ⟨24, 1, 0, 0, 3⟩ with tables := tblWrite [] .irigT1 5 0xF7 }

theorem test_F8_op_fault_after_the_extra_group : (after (ready badRollover 0)).fcause = .opFault ∧
    (after (ready badRollover 0)).findex = 0 ∧ (after (ready badRollover 0)).out =
      [⟨5, 1000, .high⟩, ⟨25, 0, .off⟩, ⟨170, 100, .low⟩, ⟨800, 0, .off⟩] := by decide +kernel
theorem test_F5_op_fault : (after (ready badIrig 0)).fcause = .opFault ∧ (after (ready badIrig 0)).findex = 5 ∧
    (after (ready badIrig 0)).out.length = 10 := by decide +kernel
theorem test_frame_map_is_configuration :
    frameTable { defaultFrames with frame3 := .t4 } 3 = some .irigT4 ∧ frameTable defaultFrames 3 = some .irigT2 := by
  decide
theorem test_F4_format_fault_first : (after (ready faultyIrig 0)).fcause = .formatFault ∧
    (after (ready faultyIrig 0)).findex = 5 ∧ (after (ready faultyIrig 0)).out.length = 10 := by decide +kernel
theorem test_F2_argument_fault : (after (ready faultyWwv 0)).fcause = .argFault ∧
    (after (ready faultyWwv 0)).findex = 4 ∧ (after (ready faultyWwv 0)).out = [] := by decide +kernel
theorem test_I6_rate_correction : ((after (ready (ieeeAt ⟨24, 1, 0, 0, 0⟩) 1)).out.drop 84).take 2 =
    [⟨2, 1000, .high⟩, ⟨9, 1000, .low⟩] ∧ totalMs (after (ready (ieeeAt ⟨24, 1, 0, 0, 0⟩) 1)).out = 1001 := by
  decide +kernel
theorem test_load_refuses_second_60 : startLegal ⟨24, 1, 0, 0, 60⟩ = false ∧ startLegal ⟨23, 366, 0, 0, 0⟩ = false := by
  decide
theorem test_load_refuses_borrow : dstRequestBorrows ⟨true, true, ⟨24, 70, 0, 30⟩⟩ = true := by decide
theorem test_withFetchWord_runs : (after (State.reset.withFetchWord 8 0x80)).out =
    [⟨800, 1500, .high⟩, ⟨200, 0, .off⟩] := by decide +kernel
theorem test_memory_write_default_removes : tblWrite (tblWrite [] .wwv 4 0x07) .wwv 4 0x21 = [] := by decide

/-! ## Witnesses -/

theorem witness_DecodeEncodeAgree : decode 0x37 = .ok .decrementSendPI ∧ decode 0xAF = .ok (.dut1Bit 15) := by decide

theorem witness_ReservedOperationsRejected : 13 ≤ (0xD0 : Byte).toNat / 16 ∧ (0xCF : Byte).toNat / 16 < 13 := by decide

/-- A legal entry at second 0, and the F8 vector. -/
theorem witness_TickRunsTheDecodedWwvEntry :
    ((ready (wwvAt ⟨24, 1, 0, 0, 59⟩) 0).cfg.fmt.irig = false ∧
      tickAdvances (ready (wwvAt ⟨24, 1, 0, 0, 59⟩) 0) .none [] (advanced (ready (wwvAt ⟨24, 1, 0, 0, 59⟩) 0) .none).1
        (advanced (ready (wwvAt ⟨24, 1, 0, 0, 59⟩) 0) .none).2 ∧
      tblRead (advanced (ready (wwvAt ⟨24, 1, 0, 0, 59⟩) 0) .none).1.cfg.tables .wwv
        (advanced (ready (wwvAt ⟨24, 1, 0, 0, 59⟩) 0) .none).1.ct.second.toNat = some 0x80 ∧
      decode 0x80 = .ok .minuteMarker) ∧
    ((ready badRollover 0).cfg.fmt.irig = false ∧
      tickAdvances (ready badRollover 0) .none [] (advanced (ready badRollover 0) .none).1
        (advanced (ready badRollover 0) .none).2 ∧
      tblRead (advanced (ready badRollover 0) .none).1.cfg.tables .wwv
        (advanced (ready badRollover 0) .none).1.ct.second.toNat = some 0xE0 ∧ 13 ≤ (0xE0 : Byte).toNat / 16) :=
  ⟨⟨by decide, tick_advances (code := 0) (by decide) (by decide +kernel), by decide +kernel, by decide⟩,
   ⟨by decide, tick_advances (code := 0) (by decide +kernel) (by decide +kernel), by decide +kernel, by decide⟩⟩

theorem witness_TickRunsTheDecodedIrigEntries_tick :
    (advanced (ready (ieeeAt ⟨24, 1, 0, 0, 0⟩) 2) .removeCycle).1.cfg.fmt.irig = true ∧
    tickAdvances (ready (ieeeAt ⟨24, 1, 0, 0, 0⟩) 2) .removeCycle []
      (advanced (ready (ieeeAt ⟨24, 1, 0, 0, 0⟩) 2) .removeCycle).1
      (advanced (ready (ieeeAt ⟨24, 1, 0, 0, 0⟩) 2) .removeCycle).2 :=
  ⟨by decide +kernel, tick_advances (code := 2) (by decide) (by decide +kernel)⟩

/-- The last bit position, and the position of the F5 vector. -/
theorem witness_TickRunsTheDecodedIrigEntries_turn :
    (frameTable (irig26 0 0).cfg.frames (99 / 10 + 1) = some .irigT5 ∧
      tblRead (irig26 0 0).cfg.tables .irigT5 (99 % 10) = some 0x60 ∧ decode 0x60 = .ok .noDecrementPI) ∧
    (frameTable (ready badIrig 0).cfg.frames (5 / 10 + 1) = some .irigT1 ∧
      tblRead (ready badIrig 0).cfg.tables .irigT1 (5 % 10) = some 0xF7 ∧ 13 ≤ (0xF7 : Byte).toNat / 16) := by decide

/-- The state after reset: no command waits in it. -/
theorem witness_IdleStepKeepsTheState : State.reset.cmds = [] := by decide

/-- The last entry of WWV_TABLE, and the last entry of IRIG_T5 in a memory that already lists an entry. -/
theorem witness_TableEntrySetReadsBack :
    (Memory.wf [] = true ∧ 60 < (if TableSpace.wwv = .wwv then 61 else 10)) ∧
    (Memory.wf (tblWrite [] .wwv 60 0x07) = true ∧ 9 < (if TableSpace.irigT5 = .wwv then 61 else 10)) ∧
    (TableSpace.irigT4 ≠ .irigT5 ∨ 9 ≠ 9) := by decide

/-- The kind clauses at 2 and 3. -/
theorem witness_SendDataSendsItsKind : 3 ≤ (3 : BitVec 4).toNat ∧ 3 ≤ (15 : BitVec 4).toNat := by decide

theorem witness_SendDataNoTickSendsItsKind :
    wwv24.cfg.fmt.irig = false ∧ 3 ≤ (3 : BitVec 4).toNat ∧ (irig26 0 21).cfg.fmt.irig = true := by decide

/-- The cursor at the last digit of each buffer. -/
theorem witness_SendCoefficientBitTestsTheCursorDigit :
    wwv24.cur.toNat = 8 ∧ wwv24.cur.toNat ≤ (if wwv24.cfg.fmt.irig then 21 else 8) ∧
    (irig26 0 21).cur.toNat ≤ (if (irig26 0 21).cfg.fmt.irig then 21 else 8) := by decide

/-- The cursor at 1, at the last digit, and at 0. -/
theorem witness_DecrementSendBitTestsTheNewDigit :
    ((irig26 97 1).cur ≠ 0 ∧ (irig26 97 1).cur.toNat ≤ (if (irig26 97 1).cfg.fmt.irig then 21 else 8)) ∧
    (wwv24.cur ≠ 0 ∧ wwv24.cur.toNat ≤ (if wwv24.cfg.fmt.irig then 21 else 8)) ∧ (irig26 99 0).cur = 0 := by decide

theorem witness_DecrementOperationsMoveAndSend : (irig26 97 1).cur ≠ 0 ∧ (irig26 99 0).cur = 0 := by decide

theorem witness_DecrementNoTickPIMovesAndSends :
    (wwv24.cfg.fmt.irig = false ∧ wwv24.cur ≠ 0) ∧
    ({ wwv24 with cur := 0 }.cfg.fmt.irig = false ∧ { wwv24 with cur := 0 }.cur = 0) ∧
    (irig26 99 0).cfg.fmt.irig = true := by decide

theorem witness_MinuteMarkerSendsTheMarker : wwv24.cfg.fmt.irig = false ∧ (irig26 0 21).cfg.fmt.irig = true := by decide

theorem witness_FlagOperationsSendTheirFlag : wwv24.cfg.fmt.irig = false ∧ (irig26 0 21).cfg.fmt.irig = true := by decide

/-- A turn of the loop that raises. -/
theorem witness_EntryChecksInOrder_stop :
    runBit 5 (ready badIrig 0) = .next (nextOf (runBit 5 (ready badIrig 0)) (ready badIrig 0)) ∧
    (nextOf (runBit 5 (ready badIrig 0)) (ready badIrig 0)).fault = true :=
  ⟨eq_next _ (by decide +kernel), by decide +kernel⟩

/-- One state and byte for each clause of the chain, each just past the clause before it. -/
theorem witness_EntryChecksInOrder :
    13 ≤ (opField 0xD0).toNat ∧
    (¬ 13 ≤ (opField 0xC0).toNat ∧ (irig26 0 21).cfg.fmt.irig = true ∧ wwvOnly (opField 0xC0)) ∧
    (¬ (wwv24.cfg.fmt.irig = true ∧ wwvOnly (opField 0x13)) ∧ (opField 0x13).toNat ≤ 1 ∧ 3 ≤ (argField 0x13).toNat) ∧
    (¬ ((opField 0x50).toNat ≤ 1 ∧ 3 ≤ (argField 0x50).toNat) ∧ decrements (opField 0x50) ∧ (irig26 99 0).cur = 0) ∧
    (¬ (decrements (opField 0x28) ∧ (irig26 99 0).cur = 0) ∧
      (irig26 99 0).cur.toNat ≤ (if (irig26 99 0).cfg.fmt.irig then 21 else 8)) := by decide

theorem witness_OperationsWriteOnlyCursorAndFault :
    exec .decrementSendZero wwv24 = .next (ran .decrementSendZero wwv24) ∧
    exec .decrementSendZero (irig26 99 0) = .next (ran .decrementSendZero (irig26 99 0)) :=
  ⟨eq_next _ (by decide), eq_next _ (by decide)⟩

/-- The widths at the defaults and at 960. -/
theorem witness_WwvEntryDurationSum :
    wwv24.cfg.fmt.irig = false ∧ wwv24.fault = false ∧ wwv24.cfg.wwvW0.toNat ≤ 960 ∧ wwv24.cfg.wwvW1.toNat ≤ 960 ∧
    wwv24.cfg.wwvWp.toNat ≤ 960 ∧ exec .dst1Bit wwv24 = .next (ran .dst1Bit wwv24) ∧ (ran .dst1Bit wwv24).fault = false :=
  ⟨by decide, by decide, by decide, by decide, by decide, eq_next _ (by decide), by decide⟩

theorem witness_EntryDescriptorCount :
    wwv24.fault = false ∧ exec .minuteMarker wwv24 = .next (ran .minuteMarker wwv24) ∧
    (ran .minuteMarker wwv24).fault = false := ⟨by decide, eq_next _ (by decide), by decide⟩

/-- A zero width at 960, and an IRIG-B configuration with a supplied group. -/
theorem witness_ExtraGroupOfAYearRollover :
    (let c := { wwvAt ⟨24, 1, 0, 0, 0⟩ with wwvW0 := 960 }; c.fmt.irig = false ∧ c.wwvW0.toNat ≤ 960) ∧
    (let c := { ieeeAt ⟨24, 1, 0, 0, 0⟩ with extraSecondIrig := some ⟨[], [], []⟩ }
     c.fmt.irig = true ∧ c.extraSecondIrig = some ⟨[], [], []⟩) := by decide

theorem witness_OrdinaryTickAddsOneSecond :
    civilInRange wwv24.ct ∧ wwv24.leapState = .normal ∧ { wwv24 with ct := ⟨24, 1, 0, 0, 58⟩ }.ct.second.toNat < 59 ∧
    ¬ deletesNow { wwv24 with ct := ⟨24, 1, 0, 0, 58⟩ } :=
  ⟨by unfold civilInRange; decide, by decide, by decide, fun h => absurd h.2.2.1 (by decide)⟩

theorem witness_LeapInsertionMakesSecondSixty :
    civilInRange (ready insertion 0).ct ∧ insertsNow (ready insertion 0) ∧ ¬ dstDue (after (ready insertion 0)) ∧
    (advanceSecond (after (ready insertion 0))).isOk = true := by
  unfold civilInRange insertsNow atLeapTarget dstDue; decide +kernel

/-- The hypotheses of the statement about a minute's end. -/
def minuteEnds (s : State) : Prop := civilInRange s.ct ∧ wrapsNow s ∧ ¬ dstDue s

/-- An ordinary wrap on the last day of year 99. -/
theorem witness_MinuteEndAdvancesTheCalendar : minuteEnds (ready (wwvAt ⟨99, 365, 23, 59, 59⟩) 0) := by
  unfold minuteEnds wrapsNow insertsNow deletesNow atLeapTarget dstDue civilInRange; decide

/-- A deletion. -/
theorem witness_MinuteEndAdvancesTheCalendar_deletion : minuteEnds (ready deletion 0) := by
  unfold minuteEnds wrapsNow insertsNow deletesNow atLeapTarget dstDue civilInRange; decide

/-- The end of an inserted second. -/
theorem witness_MinuteEndAdvancesTheCalendar_inserted : minuteEnds (after (ready insertion 0)) := by
  unfold minuteEnds wrapsNow insertsNow deletesNow atLeapTarget dstDue civilInRange; decide +kernel

theorem witness_DstActivationSkipsAnHour :
    civilInRange (ready springForward 0).ct ∧ wrapsNow (ready springForward 0) ∧ dstDue (ready springForward 0) ∧
    (ready springForward 0).dst.active = false := by
  unfold wrapsNow insertsNow deletesNow atLeapTarget dstDue civilInRange; decide

/-- A fall back at minute 0, and one at hour 0 minute 30, which no LOAD makes (70_reset_and_hazards.md R301). -/
theorem witness_DstDeactivationRepeatsAnHour :
    (civilInRange (ready fallBack 0).ct ∧ wrapsNow (ready fallBack 0) ∧ dstDue (ready fallBack 0) ∧
      (ready fallBack 0).dst.active = true ∧ 1 ≤ rippledHour (ready fallBack 0).ct) ∧
    (let s := { ready fallBack 0 with ct := ⟨24, 308, 0, 29, 59⟩, dst := ⟨true, true, ⟨24, 308, 0, 30⟩⟩ }
     civilInRange s.ct ∧ wrapsNow s ∧ dstDue s ∧ s.dst.active = true ∧ rippledHour s.ct = 0) := by
  unfold wrapsNow insertsNow deletesNow atLeapTarget dstDue civilInRange; decide

/-- An offset without a zero or a wrap, at magnitude 14. -/
theorem witness_OffsetStepsAreOneHour :
    (⟨false, 14, true⟩ : Offset) ≠ ⟨true, 0, false⟩ ∧ ¬ ((⟨false, 14, true⟩ : Offset).sign = false ∧
      (⟨false, 14, true⟩ : Offset).hours = 15) := by decide

/-- The hypotheses of the statement about the minute before a target. -/
def targetInRange (t : Target) : Prop :=
  t.year.toNat ≤ 99 ∧ 1 ≤ t.day.toNat ∧ t.day.toNat ≤ yearLength t.year ∧ t.minute.toNat ≤ 59 ∧
  (t.hour.toNat ≤ 23 ∨ (t.hour = 24 ∧ t.minute = 0))

/-- The first minute of year 0, the last minute of a leap year, and the hour 24 of the example of R121. -/
theorem witness_PrevMinutePrecedesTheTarget :
    targetInRange ⟨0, 1, 0, 0⟩ ∧ targetInRange ⟨24, 366, 23, 59⟩ ∧ targetInRange ⟨24, 70, 24, 0⟩ ∧
    0 < (59 : MinuteReg).toNat ∧ 0 < (24 : HourReg).toNat := by unfold targetInRange; decide

theorem witness_IrigBufferDigits : civilInRange ⟨16, 366, 23, 59, 60⟩ := by unfold civilInRange; decide

theorem witness_ControlFunctionBits : wwv24.cfg.fmt.ieee = false ∧ (irig26 0 21).cfg.fmt.ieee = true := by decide

theorem witness_CodeWordHasEvenParity : (irig26 0 21).cfg.fmt.ieee = true := by decide

theorem witness_BufferDigitBounds : civilInRange { irig26 0 21 with ct := ⟨99, 365, 23, 59, 60⟩ }.ct := by
  unfold civilInRange; decide

/-- An IRIG-2004 second against the same second with DST active, another offset and a leap request. -/
theorem witness_ControlInputsHiddenOutsideIeee :
    let c := { ieeeAt ⟨24, 1, 0, 0, 0⟩ with fmt := Selector.format .irig2004 }
    let s := State.afterLoad c []
    let s' := State.afterLoad { c with
      leap := ⟨true, false, ⟨24, 1, 0, 0⟩⟩, dst := ⟨false, true, defaultTarget⟩, off := ⟨true, 5, true⟩, tq := 9 } []
    s.cfg.fmt.irig = true ∧ s.cfg.fmt.ieee = false ∧ s'.cfg.fmt = s.cfg.fmt ∧ s'.cfg.tables = s.cfg.tables ∧
    s'.cfg.frames = s.cfg.frames ∧ s'.cfg.irigRcBit = s.cfg.irigRcBit ∧ s'.ct = s.ct ∧ s'.cur = s.cur ∧ s'.rc = s.rc ∧ s'.out = s.out ∧
    s'.fault = s.fault ∧ runBits 100 0 s = .next (nextOf (runBits 100 0 s) s) :=
  ⟨by decide, by decide, by decide, by decide, by decide, by decide, by decide, by decide, by decide, by decide, by decide,
   eq_next _ (by decide +kernel)⟩

theorem witness_DefaultIrigSecondSendsTheCodeMap :
    Inv (ready (ieeeAt ⟨23, 365, 23, 59, 59⟩) 1) ∧ (ready (ieeeAt ⟨23, 365, 23, 59, 59⟩) 1).cfg.fmt.irig = true ∧
    (ready (ieeeAt ⟨23, 365, 23, 59, 59⟩) 1).cfg.tables = [] ∧
    (ready (ieeeAt ⟨23, 365, 23, 59, 59⟩) 1).cfg.frames = defaultFrames ∧
    tickAdvances (ready (ieeeAt ⟨23, 365, 23, 59, 59⟩) 1) .addCycle []
      (advanced (ready (ieeeAt ⟨23, 365, 23, 59, 59⟩) 1) .addCycle).1
      (advanced (ready (ieeeAt ⟨23, 365, 23, 59, 59⟩) 1) .addCycle).2 :=
  ⟨inv_of_check (by decide), by decide, by decide, by decide, tick_advances (code := 1) (by decide) (by decide +kernel)⟩

/-- A new minute, from a cursor a full minute does not leave there; and second 8, where the cursor moves first. -/
theorem witness_DefaultWwvSecondSendsTheCodeMap :
    (Inv (ready (wwvAt ⟨24, 1, 0, 0, 59⟩) 0) ∧ (ready (wwvAt ⟨24, 1, 0, 0, 59⟩) 0).cfg.fmt.irig = false ∧
      (ready (wwvAt ⟨24, 1, 0, 0, 59⟩) 0).cfg.tables = [] ∧
      tickAdvances (ready (wwvAt ⟨24, 1, 0, 0, 59⟩) 0) .none [] (advanced (ready (wwvAt ⟨24, 1, 0, 0, 59⟩) 0) .none).1
        (advanced (ready (wwvAt ⟨24, 1, 0, 0, 59⟩) 0) .none).2 ∧
      (advanced (ready (wwvAt ⟨24, 1, 0, 0, 59⟩) 0) .none).1.ct.second = 0) ∧
    (Inv (ready (wwvAt ⟨24, 1, 0, 0, 7⟩) 0) ∧
      tickAdvances (ready (wwvAt ⟨24, 1, 0, 0, 7⟩) 0) .none [] (advanced (ready (wwvAt ⟨24, 1, 0, 0, 7⟩) 0) .none).1
        (advanced (ready (wwvAt ⟨24, 1, 0, 0, 7⟩) 0) .none).2 ∧
      (ready (wwvAt ⟨24, 1, 0, 0, 7⟩) 0).cur.toNat = wwvCursorAfter 7) :=
  ⟨⟨inv_of_check (by decide), by decide, by decide, tick_advances (code := 0) (by decide) (by decide +kernel),
    by decide +kernel⟩,
   ⟨inv_of_check (by decide), tick_advances (code := 0) (by decide) (by decide +kernel), by decide⟩⟩

/-- A WWV start at the second of a decrement, with the rate-correction code at its largest. -/
theorem witness_DefaultTablesNeverFault :
    let s := State.afterLoad (wwvAt ⟨24, 1, 0, 0, 44⟩) [.tick 0, .tick 2]
    Inv s ∧ s.cfg.tables = [] ∧ s.cfg.frames = defaultFrames ∧ s.fault = false ∧ (∀ k ∈ s.cmds, ∃ code : BitVec 2, k = .tick code ∧ code.toNat < 3) ∧
    s.cfg.fmt.irig = false ∧ wwvCursorAfter s.ct.second.toNat ≤ s.cur.toNat := by
  refine ⟨inv_of_check (by decide), by decide, by decide, by decide, fun k hk => ?_, by decide, by decide⟩
  obtain rfl | rfl : k = .tick 0 ∨ k = .tick 2 := by simpa [State.afterLoad] using hk
  · exact ⟨0, rfl, by decide⟩
  · exact ⟨2, rfl, by decide⟩

/-- A second with one entry changed from the default, which raises nothing. -/
theorem witness_IrigSecondDurationSum :
    let s := ready { ieeeAt ⟨24, 1, 0, 0, 0⟩ with tables := tblWrite [] .irigT1 5 0x02 } 1
    Inv s ∧ s.cfg.fmt.irig = true ∧ tickAdvances s .addCycle [] (advanced s .addCycle).1 (advanced s .addCycle).2 ∧
    step s = .next (after s) ∧ (after s).fault = false :=
  ⟨inv_of_check (by decide), by decide, tick_advances (code := 1) (by decide) (by decide +kernel),
   eq_next _ (by decide +kernel), by decide +kernel⟩

/-- One fault in each format. -/
theorem witness_FaultIsPrecise :
    (Inv (ready faultyIrig 0) ∧ tickAdvances (ready faultyIrig 0) .none [] (advanced (ready faultyIrig 0) .none).1
        (advanced (ready faultyIrig 0) .none).2 ∧
      step (ready faultyIrig 0) = .next (after (ready faultyIrig 0)) ∧ (after (ready faultyIrig 0)).fault = true ∧
      (ready faultyIrig 0).cfg.fmt.irig = true) ∧
    (Inv (ready faultyWwv 0) ∧ tickAdvances (ready faultyWwv 0) .none [] (advanced (ready faultyWwv 0) .none).1
        (advanced (ready faultyWwv 0) .none).2 ∧
      step (ready faultyWwv 0) = .next (after (ready faultyWwv 0)) ∧ (after (ready faultyWwv 0)).fault = true ∧
      (ready faultyWwv 0).cfg.fmt.irig = false) :=
  ⟨⟨inv_of_check (by decide +kernel), tick_advances (code := 0) (by decide +kernel) (by decide +kernel),
    eq_next _ (by decide +kernel), by decide +kernel, by decide⟩,
   ⟨inv_of_check (by decide +kernel), tick_advances (code := 0) (by decide +kernel) (by decide +kernel),
    eq_next _ (by decide +kernel), by decide +kernel, by decide⟩⟩

/-- Two TICKs on a stuck TCE, the second with the largest legal code. -/
theorem witness_StuckWhileFaultIsSet :
    let s := { wwv24.raised .opFault with cmds := [.tick 0, .tick 2] }
    s.loaded = true ∧ s.fault = true ∧ ([0, 2] : List (BitVec 2)).length = 2 ∧
    (∀ c ∈ ([0, 2] : List (BitVec 2)), c.toNat < 3) ∧ s.cmds = ([0, 2] : List (BitVec 2)).map Command.tick ++ [] := by
  decide

/-- A LOAD that is accepted in the fault state, and one with start second 60. -/
theorem witness_LoadGivesTheResetValues :
    let s := wwv24.raised .opFault
    ({ s with cmds := [.load insertion] }.cmds = [.load insertion] ∧ configLegal insertion) ∧
    ({ s with cmds := [.load (wwvAt ⟨24, 1, 0, 0, 60⟩)] }.cmds = [.load (wwvAt ⟨24, 1, 0, 0, 60⟩)] ∧
      ¬ configLegal (wwvAt ⟨24, 1, 0, 0, 60⟩)) := by
  unfold configLegal; decide

theorem witness_TicksOutsideTheirContractAreRefused :
    let s := { ready (wwvAt ⟨24, 1, 0, 0, 0⟩) 0 with loaded := false }
    (s.cmds = .tick 0 :: [] ∧ s.loaded = false) ∧
    ((ready (wwvAt ⟨24, 1, 0, 0, 0⟩) 3).cmds = .tick 3 :: [] ∧ (ready (wwvAt ⟨24, 1, 0, 0, 0⟩) 3).loaded = true) := by
  decide

/-- The start second at the boundary 57, and one at 59 with an insertion due. -/
theorem witness_FirstTickIsStartPlusOne :
    (let s := State.afterLoad defaultConfig [.load (wwvAt ⟨24, 1, 0, 0, 57⟩), .tick 2]
     s.cmds = .load (wwvAt ⟨24, 1, 0, 0, 57⟩) :: .tick 2 :: [] ∧ configLegal (wwvAt ⟨24, 1, 0, 0, 57⟩) ∧
     rcOfCode 2 = some .removeCycle ∧ (wwvAt ⟨24, 1, 0, 0, 57⟩).start.second.toNat < 58) ∧
    (let s := State.afterLoad defaultConfig [.load insertion, .tick 0]
     s.cmds = .load insertion :: .tick 0 :: [] ∧ configLegal insertion ∧ rcOfCode 0 = some .none) := by
  unfold configLegal; decide

theorem witness_TickKeepsTheConfiguration :
    (ready springForward 0).cmds = .tick 0 :: [] ∧ step (ready springForward 0) = .next (after (ready springForward 0)) :=
  ⟨by decide, eq_next _ (by decide +kernel)⟩

/-- A TICK that inserts a second, a TICK that raises a fault, and a LOAD. -/
theorem witness_StepKeepsTheInvariant :
    (Inv (ready insertion 0) ∧ step (ready insertion 0) = .next (after (ready insertion 0))) ∧
    (Inv (ready faultyIrig 0) ∧ step (ready faultyIrig 0) = .next (after (ready faultyIrig 0))) ∧
    (Inv (State.afterLoad insertion [.load fallBack]) ∧
      step (State.afterLoad insertion [.load fallBack]) = .next (after (State.afterLoad insertion [.load fallBack]))) :=
  ⟨⟨inv_of_check (by decide), eq_next _ (by decide +kernel)⟩,
   ⟨inv_of_check (by decide +kernel), eq_next _ (by decide +kernel)⟩,
   ⟨inv_of_check (by decide), eq_next _ (by decide +kernel)⟩⟩

/-- A TICK that ends a minute with a DST request, its rc code the largest, and a LOAD. -/
theorem witness_LegalCommandsAlwaysComplete :
    (Inv (ready fallBack 2) ∧ ∀ k, (ready fallBack 2).cmds.head? = some k → commandLegal k) ∧
    (Inv (State.afterLoad insertion [.load fallBack]) ∧
      ∀ k, (State.afterLoad insertion [.load fallBack]).cmds.head? = some k → commandLegal k) := by
  refine ⟨⟨inv_of_check (by decide), fun k h => ?_⟩, ⟨inv_of_check (by decide), fun k h => ?_⟩⟩
  · obtain rfl : .tick 2 = k := by simpa [ready, State.afterLoad] using h
    unfold commandLegal; decide
  · obtain rfl : .load fallBack = k := by simpa [State.afterLoad] using h
    unfold commandLegal configLegal; decide

end Sys2Proof.Tests
end

section
/-! SUPPORT and proofs: the checks of a table entry (30_encoding.md R80 to R92, 42_pulse_ops.md R175 to R179). First the
rules: what a pulse group sends, what the decoder keeps of a byte, what each check answers. Then the two statements. -/

namespace Sys2Proof.Machine

open Sys2Proof.Spec

/-! ## What a pulse group sends -/

/-- One bit of a given kind is sent, in the active format: the three relations of the spec under one name. -/
def kindSent : PulseKind → State → Bool → State → Prop
  | .zero => zeroSent
  | .one => oneSent
  | .pi => piSent

theorem wwvAdj_eq (rc : RcMode) : wwvAdj rc = wwvMs rc := by cases rc <;> rfl

theorem wwvMs_bounds (rc : RcMode) : -10 ≤ wwvMs rc ∧ wwvMs rc ≤ 10 := by cases rc <;> simp [wwvMs]

theorem irigAdj_eq (c : Config) (b : PositionReg) (rc : RcMode) :
    irigAdj c b rc = if b = c.irigRcBit then irigMs rc else 0 := by cases rc <;> rfl

theorem irigAdj_bounds (c : Config) (b : PositionReg) (rc : RcMode) : -1 ≤ irigAdj c b rc ∧ irigAdj c b rc ≤ 1 := by
  unfold irigAdj
  split <;> cases rc <;> simp [rcCycles]

/-- An interval that fits the 10-bit format of 10_state.md R46 is held exactly. -/
theorem intervalMs_toNat {v : Int} (h0 : 0 ≤ v) (h1 : v < 1024) : ((intervalMs v).toNat : Int) = v := by
  have hv : ((BitVec.ofInt 10 v).toNat : Int) = v := by
    rw [BitVec.toNat_ofInt]; omega
  simp only [intervalMs, hv, ↓reduceIte]

theorem wwvData_sent (s : State) (kind : PulseKind) (tick : Bool) :
    wwvSecondSent s (wwvWidth s.cfg kind) tick (s.emitAll (wwvData s.cfg kind tick s.rc)) := by
  have hadj := wwvMs_bounds s.rc
  refine ⟨_, ?_, fun hw => intervalMs_toNat (by omega) (by omega)⟩
  cases tick <;> simp [State.emitAll, wwvData, leadOf, wwvAdj_eq]

theorem irigBit_sent (s : State) (kind : PulseKind) :
    irigBitSent s (BitVec.ofNat 10 (irigMark kind)) (s.emitAll (irigBit s.cfg kind s.bitIndex s.rc)) := by
  have hadj := irigAdj_bounds s.cfg s.bitIndex s.rc
  refine ⟨_, rfl, ?_⟩
  rw [← irigAdj_eq]
  cases kind <;> exact intervalMs_toNat (by simp [irigMark]; omega) (by simp [irigMark]; omega)

/-- `Send` sends one bit of its kind, in either format (42_pulse_ops.md R175). -/
theorem send_sent (s : State) (kind : PulseKind) (tick : Bool) :
    kindSent kind s tick (s.emitAll (sendGroup s kind tick)) := by
  unfold sendGroup
  split
  case isTrue hf =>
    have h := irigBit_sent s kind
    cases kind <;> simpa [kindSent, zeroSent, oneSent, piSent, hf, irigMark] using h
  case isFalse hf =>
    have h := wwvData_sent s kind tick
    cases kind <;> simpa [kindSent, zeroSent, oneSent, piSent, hf, wwvWidth] using h

/-- The minute marker is 800 ms of tone and the exact quiet interval (42_pulse_ops.md R172). -/
theorem wwvMarker_sent (s : State) : wwvSent s .marker (s.emitAll (wwvMarker s)) := by
  have hadj := wwvMs_bounds s.rc
  refine ⟨intervalMs (200 + wwvMs s.rc), intervalMs_toNat (by omega) (by omega), ?_⟩
  simp [State.emitAll, wwvMarker, markerFrequency, wwvAdj_eq]

/-! ## What the decoder keeps of a byte -/

/-- A decoded entry has the operation number of its byte, and the argument where the operation reads it. -/
theorem decodeFields_ok {op : OpNumber} {arg : Argument} {i : Instr} (h : decodeFields op arg = .ok i) :
    opcode i = op ∧ (argIgnored i = false → argument i = arg) := by
  unfold decodeFields at h
  split at h <;> cases h
  all_goals exact ⟨BitVec.eq_of_toNat_eq (by simp [opcode, *]), by simp [argument, argIgnored]⟩

theorem decodeFields_of_lt {op : OpNumber} (h : op.toNat < 13) (arg : Argument) :
    ∃ i, decodeFields op arg = .ok i := by
  unfold decodeFields
  generalize op.toNat = n at h
  interval_cases n <;> exact ⟨_, rfl⟩

theorem decodeFields_of_ge {op : OpNumber} (h : 13 ≤ op.toNat) (arg : Argument) :
    decodeFields op arg = .error (.illegalOperation op) := by
  unfold decodeFields
  split
  case h_14 => rfl
  all_goals omega

theorem execEntry_of_ok {e : Byte} {i : Instr} (h : decode e = .ok i) (s : State) : execEntry e s = exec i s := by
  simp [execEntry, h]

theorem execEntry_of_ge {e : Byte} (h : 13 ≤ (opField e).toNat) (s : State) :
    execEntry e s = .next (faulted s .opFault) := by
  simp only [execEntry, decode, decodeFields_of_ge h]
  rfl

/-! ## When each check of an entry applies, by its fields (R178, R88) -/

theorem admitted_eq_false_iff (f : Format) (i : Instr) :
    admitted f i = false ↔ f.irig = true ∧ wwvOnly (opcode i) := by
  cases i <;> simp [admitted, admittedInIrig, wwvOnly, opcode]

theorem wf_eq_false_iff (i : Instr) : i.wf = false ↔ (opcode i).toNat ≤ 1 ∧ 3 ≤ (argument i).toNat := by
  cases i <;> simp [Instr.wf, kindLegal, opcode, argument]

theorem argIgnored_of_opcode_le {i : Instr} (h : (opcode i).toNat ≤ 1) : argIgnored i = false := by
  cases i <;> simp [opcode, argIgnored] at h ⊢

/-- The argument check read off the byte's own fields. -/
theorem wf_eq_false_iff_of_decode {e : Byte} {i : Instr} (h : decode e = .ok i) :
    i.wf = false ↔ (opField e).toNat ≤ 1 ∧ 3 ≤ (argField e).toNat := by
  obtain ⟨hop, harg⟩ := decodeFields_ok h
  rw [wf_eq_false_iff, hop]
  refine and_congr_right fun hle => ?_
  rw [harg (argIgnored_of_opcode_le (hop ▸ hle))]

/-! ## What each check answers, and what runs where none applies (R179) -/

theorem withKind_of_legal {arg : Argument} (h : kindLegal arg = true) (s : State) (run : PulseKind → Result) :
    ∃ k, withKind arg s run = run k := by
  rw [← kindOfArg_isSome] at h
  obtain ⟨k, hk⟩ := Option.isSome_iff_exists.1 h
  exact ⟨k, by simp [withKind, hk]⟩

theorem withKind_of_illegal {arg : Argument} (h : kindLegal arg = false) (s : State) (run : PulseKind → Result) :
    withKind arg s run = .next (s.raised .argFault) := by
  rw [← kindOfArg_isSome, Option.isSome_eq_false_iff, Option.isNone_iff_eq_none] at h
  simp [withKind, h]

theorem withDecrement_of_ne {s : State} (h : s.cur ≠ 0) (run : State → Result) :
    withDecrement s run = run s.cursorLeft :=
  if_neg h

theorem withDecrement_of_zero {s : State} (h : s.cur = 0) (run : State → Result) :
    withDecrement s run = .next (s.raised .cursorUnderrun) :=
  if_pos h

theorem withDigit_of_le {s : State} (h : s.cur.toNat ≤ (lastIndex s.cfg.fmt).toNat) (run : Digit → Result) :
    ∃ d, withDigit s run = run d := by
  obtain ⟨d, hd⟩ := bufRead_of_le h
  exact ⟨d, by simp [withDigit, hd]⟩

theorem cursorLeft_inside {s : State} (h0 : s.cur ≠ 0) (h : s.cur.toNat ≤ (lastIndex s.cfg.fmt).toNat) :
    s.cursorLeft.cur.toNat ≤ (lastIndex s.cursorLeft.cfg.fmt).toNat := by
  have := decrement_toNat h0
  simp only [cursorLeft_cur, cursorLeft_cfg]
  omega

theorem lastIndex_toNat (f : Format) : (lastIndex f).toNat = if f.irig then 21 else 8 := by
  unfold lastIndex; split <;> rfl

theorem faulted_eq_raised (s : State) (c : FaultCause) : faulted s c = s.raised c := rfl

theorem exec_of_not_admitted {i : Instr} {s : State} (ha : admitted s.cfg.fmt i = false) :
    exec i s = .next (s.raised .formatFault) := by
  cases i <;> exact ifAdmitted_of_not_admitted ha _

/-- Only the kind form has an argument to check. -/
theorem exec_of_not_wf {i : Instr} {s : State} (ha : admitted s.cfg.fmt i = true) (hw : i.wf = false) :
    exec i s = .next (s.raised .argFault) := by
  cases i
  case sendData kind => exact (ifAdmitted_of_admitted ha _).trans (withKind_of_illegal hw s _)
  case sendDataNoTick kind => exact (ifAdmitted_of_admitted ha _).trans (withKind_of_illegal hw s _)
  all_goals cases hw

/-- An operation of the Decrement class takes the underrun before it reads a digit or sends. -/
theorem exec_of_underrun {i : Instr} {s : State} (ha : admitted s.cfg.fmt i = true) (hd : decrements (opcode i))
    (hc : s.cur = 0) : exec i s = .next (s.raised .cursorUnderrun) := by
  cases i
  case decrementSendPI | decrementSendBit | decrementSendZero | decrementNoTickPI =>
    exact (ifAdmitted_of_admitted ha _).trans (withDecrement_of_zero hc _)
  all_goals simp [decrements, opcode] at hd

/-- The state an operation sends from: the cursor one left for the Decrement class (R176). -/
def sendingState (i : Instr) (s : State) : State := if decrements (opcode i) then movedLeft s else s

/-- Whether an operation sends with the tick pulse: all but operations 1 and 7 (R171, R181, R187). -/
def sendsTick (i : Instr) : Bool := decide (opcode i ≠ 1 ∧ opcode i ≠ 7)

@[simp] theorem sendingState_fault (i : Instr) (s : State) : (sendingState i s).fault = s.fault := by
  unfold sendingState; split <;> rfl

@[simp] theorem sendingState_fcause (i : Instr) (s : State) : (sendingState i s).fcause = s.fcause := by
  unfold sendingState; split <;> rfl

@[simp] theorem sendingState_findex (i : Instr) (s : State) : (sendingState i s).findex = s.findex := by
  unfold sendingState; split <;> rfl

@[simp] theorem sendingState_cur (i : Instr) (s : State) :
    (sendingState i s).cur = if decrements (opcode i) then s.cur - 1 else s.cur := by
  unfold sendingState; split <;> rfl

/-- The one thing an entry that passes its checks answers: one `Send`, or the minute marker. -/
def sendsOneGroup (i : Instr) (x : State) (r : Result) : Prop :=
  (∃ k, r = send k (sendsTick i) x) ∨ (i = .minuteMarker ∧ r = .next (x.emitAll (wwvMarker x)))

theorem exec_sends {i : Instr} {s : State} (ha : admitted s.cfg.fmt i = true) (hw : i.wf = true)
    (hd : ¬(decrements (opcode i) ∧ s.cur = 0)) (hc : s.cur.toNat ≤ (lastIndex s.cfg.fmt).toNat) :
    sendsOneGroup i (sendingState i s) (exec i s) := by
  have run : ∀ body, ifAdmitted i s body = body := ifAdmitted_of_admitted ha
  cases i
  case sendData kind =>
    obtain ⟨k, hk⟩ := withKind_of_legal hw s fun k => send k true s
    exact .inl ⟨k, (run _).trans hk⟩
  case sendDataNoTick kind =>
    obtain ⟨k, hk⟩ := withKind_of_legal hw s fun k => send k false s
    exact .inl ⟨k, (run _).trans hk⟩
  case sendCoefficientBit mask =>
    obtain ⟨d, h⟩ := withDigit_of_le hc fun d => send (bitTest d mask) true s
    exact .inl ⟨_, (run _).trans h⟩
  case decrementSendBit mask =>
    have h0 : s.cur ≠ 0 := fun h => hd ⟨by simp [decrements, opcode], h⟩
    obtain ⟨d, h⟩ := withDigit_of_le (cursorLeft_inside h0 hc) fun d => send (bitTest d mask) true s.cursorLeft
    exact .inl ⟨_, (run _).trans ((withDecrement_of_ne h0 _).trans h)⟩
  case decrementSendPI | decrementSendZero | decrementNoTickPI =>
    have h0 : s.cur ≠ 0 := fun h => hd ⟨by simp [decrements, opcode], h⟩
    exact .inl ⟨_, (run _).trans (withDecrement_of_ne h0 _)⟩
  case minuteMarker => exact .inr ⟨rfl, run _⟩
  case noDecrementPI | leapWarningBit | dut1Bit | dst1Bit | dst2Bit => exact .inl ⟨_, run _⟩

/-- The same in the spec's terms: one pulse of the entry's tick, or for operation 8 the minute marker. -/
def entrySent (i : Instr) (x t : State) : Prop :=
  zeroSent x (sendsTick i) t ∨ oneSent x (sendsTick i) t ∨ piSent x (sendsTick i) t ∨
  (opcode i = 8 ∧ wwvSent x .marker t)

theorem entrySent_of_kindSent {i : Instr} {k : PulseKind} {x t : State} (h : kindSent k x (sendsTick i) t) :
    entrySent i x t := by
  cases k with
  | zero => exact .inl h
  | one => exact .inr (.inl h)
  | pi => exact .inr (.inr (.inl h))

/-- An entry that passes its checks only appends its group to the state it sends from. -/
theorem exec_sent {i : Instr} {s : State} (ha : admitted s.cfg.fmt i = true) (hw : i.wf = true)
    (hd : ¬(decrements (opcode i) ∧ s.cur = 0)) (hc : s.cur.toNat ≤ (lastIndex s.cfg.fmt).toNat) :
    ∃ ps, exec i s = .next ((sendingState i s).emitAll ps) ∧
      entrySent i (sendingState i s) ((sendingState i s).emitAll ps) := by
  obtain ⟨k, h⟩ | ⟨rfl, h⟩ := exec_sends ha hw hd hc
  · exact ⟨_, h.trans (send_eq ..), entrySent_of_kindSent (send_sent ..)⟩
  · exact ⟨_, h, .inr (.inr (.inr ⟨rfl, wwvMarker_sent _⟩))⟩

/-- A bit that raises stops the loop with the state it left (60_exceptions.md R265). -/
theorem runBits_stops {b : Nat} {s t : State} (h : runBit b s = .next t) (hf : t.fault = true) (n : Nat) :
    runBits (n + 1) b s = .next t := by
  simp [runBits, h, hf]

end Sys2Proof.Machine
end

section
/-! PROOFS. The statements of 30_encoding.md. -/

namespace Sys2Proof.Proofs

open Sys2Proof.Machine Sys2Proof.Spec

/-- Settles O3: six fixed words, evaluated. -/
theorem workedEncodingsDecode : Obligations.WorkedEncodingsDecode := by
  unfold Obligations.WorkedEncodingsDecode
  decide

/-- Settles O21: each check is read off the byte's fields and answered by its own rule, in the order of the checks. -/
theorem entryChecksInOrder : Obligations.EntryChecksInOrder := by
  refine ⟨fun s e => ?_, fun n b s t h hf => runBits_stops h hf n⟩
  dsimp only
  by_cases h13 : 13 ≤ (opField e).toNat
  · rw [if_pos h13]
    exact execEntry_of_ge h13 s
  obtain ⟨i, hi⟩ : ∃ i, decode e = .ok i := decodeFields_of_lt (by omega) _
  have hop : opField e = opcode i := (decodeFields_ok hi).1.symm
  have hwf := hop ▸ wf_eq_false_iff_of_decode hi
  rw [if_neg h13, execEntry_of_ok hi]
  simp only [hop, ← admitted_eq_false_iff, faulted_eq_raised]
  by_cases hadm : admitted s.cfg.fmt i = false
  · rw [if_pos hadm]
    exact exec_of_not_admitted hadm
  rw [if_neg hadm]
  rw [Bool.not_eq_false] at hadm
  by_cases harg : (opcode i).toNat ≤ 1 ∧ 3 ≤ (argField e).toNat
  · rw [if_pos harg]
    exact exec_of_not_wf hadm (hwf.2 harg)
  rw [if_neg harg]
  rw [← hwf, Bool.not_eq_false] at harg
  by_cases hcur : decrements (opcode i) ∧ s.cur = 0
  · rw [if_pos hcur]
    exact exec_of_underrun hadm hcur.1 hcur.2
  rw [if_neg hcur]
  intro hin
  obtain ⟨ps, hrun, hsent⟩ := exec_sent hadm harg hcur (by rwa [lastIndex_toNat])
  exact ⟨i, _, hi, rfl, hrun, sendingState_fault i s, sendingState_fcause i s, sendingState_findex i s,
    sendingState_cur i s, hsent⟩

end Sys2Proof.Proofs
end

section
/-! SUPPORT and proofs: a minute's end with a DST switch, the offset field and the pending flags (40_civil_time.md R101
to R120). First the rules: the tuple matches, the offset functions, what each step of a tick that ends the minute leaves.
Then the four statements. -/

namespace Sys2Proof.Machine

open Sys2Proof.Spec

/-! ## The tuple matches -/

theorem minuteOf_eq_iff (c : CivilTime) (t : Target) :
    minuteOf c = t ↔ c.year = t.year ∧ c.day = t.day ∧ c.hour = t.hour ∧ c.minute = t.minute := by
  cases t
  simp [minuteOf]

/-- `LeapMatch` is the plain equality of the four numbers (40_civil_time.md R101). -/
theorem leapMatch_iff (s : State) : leapMatch s = true ↔ atLeapTarget s := by
  simp [leapMatch, minuteOf_eq_iff, atLeapTarget]

theorem leapSecondPending_iff (s : State) :
    leapSecondPending s = true ↔ (s.cfg.leap.ins = true ∨ s.cfg.leap.del = true) ∧ atLeapTarget s := by
  simp [leapSecondPending, leapMatch_iff]

theorem leapPolarity_iff (s : State) : leapPolarity s = true ↔ s.cfg.leap.del = true ∧ atLeapTarget s := by
  simp [leapPolarity, leapMatch_iff]

theorem dstPendingFlag_iff (s : State) :
    dstPendingFlag s = true ↔ s.dst.pend = true ∧ minuteOf s.ct = prevMinute s.dst.target := by
  simp [dstPendingFlag]

theorem dstFire_iff (s : State) : dstFire s = true ↔ s.dst.pend = true ∧ minuteOf s.ct = s.dst.target := by
  simp [dstFire]

/-! ## The offset functions

An equation for each case of the two functions (40_civil_time.md R115, R116). `OffsetDec` is the mirror image of
`OffsetInc`, so that what it denotes follows from what `OffsetInc` denotes. -/

section
variable {m : OffsetHoursReg} {half : Bool}

theorem offsetInc_minus_zero : offsetInc ⟨true, 0, half⟩ = ⟨false, if half then 0 else 1, half⟩ := rfl

theorem offsetInc_negative (hm : m ≠ 0) : offsetInc ⟨true, m, half⟩ = ⟨true, m - 1, half⟩ := if_neg hm

theorem offsetInc_plus_fifteen : offsetInc ⟨false, 15, half⟩ = ⟨true, if half then 7 else 8, half⟩ := rfl

theorem offsetInc_positive (hm : m ≠ 15) : offsetInc ⟨false, m, half⟩ = ⟨false, m + 1, half⟩ := if_neg hm

theorem offsetDec_plus_zero : offsetDec ⟨false, 0, half⟩ = ⟨true, if half then 0 else 1, half⟩ := rfl

theorem offsetDec_positive (hm : m ≠ 0) : offsetDec ⟨false, m, half⟩ = ⟨false, m - 1, half⟩ := if_neg hm

theorem offsetDec_minus_fifteen : offsetDec ⟨true, 15, half⟩ = ⟨false, if half then 7 else 8, half⟩ := rfl

theorem offsetDec_negative (hm : m ≠ 15) : offsetDec ⟨true, m, half⟩ = ⟨true, m + 1, half⟩ := if_neg hm

end

/-- The offset of the other sign. -/
def mirror (o : Offset) : Offset := { o with sign := !o.sign }

@[simp] theorem mirror_mk (sign : Bool) (m : OffsetHoursReg) (half : Bool) :
    mirror ⟨sign, m, half⟩ = ⟨!sign, m, half⟩ := rfl

theorem offsetDec_eq_mirror (o : Offset) : offsetDec o = mirror (offsetInc (mirror o)) := by
  obtain ⟨sign, m, half⟩ := o
  cases sign
  case true =>
    by_cases hm : m = 15
    · subst hm
      simp only [offsetDec_minus_fifteen, mirror_mk, Bool.not_true, offsetInc_plus_fifteen]
    · simp [offsetDec_negative hm, offsetInc_positive hm]
  case false =>
    by_cases hm : m = 0
    · subst hm
      simp only [offsetDec_plus_zero, mirror_mk, Bool.not_false, offsetInc_minus_zero]
    · simp [offsetDec_positive hm, offsetInc_negative hm]

theorem offsetHalfHours_mirror (o : Offset) : offsetHalfHours (mirror o) = -offsetHalfHours o := by
  obtain ⟨sign, m, half⟩ := o
  cases sign <;> simp [offsetHalfHours, mirror]

theorem offsetInc_half (o : Offset) : (offsetInc o).half = o.half := by
  unfold offsetInc
  split <;> split <;> rfl

theorem offsetDec_half (o : Offset) : (offsetDec o).half = o.half := by
  rw [offsetDec_eq_mirror]
  exact offsetInc_half (mirror o)

/-- One hour later is 2 half hours more, but for the outward wrap of a positive offset at 15 (40_civil_time.md R117). -/
theorem offsetHalfHours_offsetInc (o : Offset) :
    offsetHalfHours (offsetInc o) = offsetHalfHours o + 2 - (if o.sign = false ∧ o.hours = 15 then 48 else 0) := by
  obtain ⟨sign, m, half⟩ := o
  cases sign
  case true =>
    by_cases hm : m = 0
    · subst hm
      cases half <;> decide
    · have hsub : (m - 1).toNat + 1 = m.toNat := by bv_omega
      simp only [offsetInc_negative hm, offsetHalfHours, Bool.true_eq_false, false_and, if_true, if_false]
      omega
  case false =>
    by_cases hm : m = 15
    · subst hm
      cases half <;> decide
    · have hadd : (m + 1).toNat = m.toNat + 1 := by bv_omega
      simp only [offsetInc_positive hm, offsetHalfHours, Bool.false_eq_true, hm, and_false, if_false, hadd]
      omega

/-- One hour earlier is 2 half hours less, but for the outward wrap of a negative offset at 15 (40_civil_time.md R117). -/
theorem offsetHalfHours_offsetDec (o : Offset) :
    offsetHalfHours (offsetDec o) = offsetHalfHours o - 2 + (if o.sign = true ∧ o.hours = 15 then 48 else 0) := by
  have hsign : (mirror o).sign = false ↔ o.sign = true := by simp [mirror]
  have hhours : (mirror o).hours = o.hours := rfl
  rw [offsetDec_eq_mirror, offsetHalfHours_mirror, offsetHalfHours_offsetInc, offsetHalfHours_mirror]
  simp only [hsign, hhours]
  omega

theorem offsetHalfHours_offsetDec_offsetInc (o : Offset) :
    (offsetHalfHours (offsetDec (offsetInc o)) - offsetHalfHours o) % 48 = 0 := by
  rw [offsetHalfHours_offsetDec, offsetHalfHours_offsetInc]
  split <;> split <;> omega

/-- Minus zero is the one offset away from the wrap that a step there and back does not restore. -/
theorem offsetDec_offsetInc {o : Offset} (hzero : o ≠ ⟨true, 0, false⟩) (hwrap : ¬(o.sign = false ∧ o.hours = 15)) :
    offsetDec (offsetInc o) = o := by
  obtain ⟨sign, m, half⟩ := o
  cases sign
  case true =>
    by_cases hm : m = 0
    · subst hm
      cases half
      case false => exact absurd rfl hzero
      case true => rfl
    · have hback : m - 1 ≠ 15 := by bv_omega
      rw [offsetInc_negative hm, offsetDec_negative hback, BitVec.sub_add_cancel]
  case false =>
    have hm : m ≠ 15 := fun h => hwrap ⟨rfl, h⟩
    have hback : m + 1 ≠ 0 := by bv_omega
    rw [offsetInc_positive hm, offsetDec_positive hback, BitVec.add_sub_cancel]

/-! ## A tick that ends the minute -/

/-- Second 0 of the next minute before the hour is reduced (40_civil_time.md R107, R112): what `atNewMinute` is before
steps 4 and 5. -/
def unreduced (s : State) (hour : Nat) (dst : DstState) (off : Offset) : State :=
  { s with
    ct := { s.ct with hour := BitVec.ofNat 5 hour, minute := BitVec.ofNat 6 (rippledMinute s.ct), second := 0 }
    leapState := .normal
    dst := dst
    off := off }

theorem rippledHour_le {t : CivilTime} (h : civilInRange t) : rippledHour t ≤ 24 := by
  obtain ⟨-, -, -, hhour, -, -⟩ := h
  unfold rippledHour
  split <;> omega

theorem rippledMinute_le {t : CivilTime} (h : civilInRange t) : rippledMinute t ≤ 59 := by
  obtain ⟨-, -, -, -, hminute, -⟩ := h
  unfold rippledMinute
  split <;> omega

theorem armLeap_of_deletesNow {s : State} (h : deletesNow s) : armLeap s = { s with leapState := .deleting } := by
  obtain ⟨hnormal, hsecond, hdel, htarget⟩ := h
  simp [armLeap, hnormal, hsecond, hdel, leapMatch_iff, htarget]

theorem armLeap_of_not_normal {s : State} (h : s.leapState ≠ .normal) : armLeap s = s := by
  simp [armLeap, h]

theorem armLeap_of_unarmed {s : State} (hdel : ¬deletesNow s) (hins : ¬insertsNow s) : armLeap s = s := by
  obtain ⟨-, hnormal, hmatch, hreq, hsecond⟩ | ⟨-, hnormal, hmatch, hreq, hsecond⟩ | h := armLeap_cases s
  · exact absurd ⟨hnormal, hsecond, hreq, (leapMatch_iff s).1 hmatch⟩ hdel
  · exact absurd ⟨hnormal, hsecond, hreq, (leapMatch_iff s).1 hmatch⟩ hins
  · exact h

/-- Steps 1 and 2 of a tick that ends the minute leave second 0 and the leap state Normal, whichever way it ends. -/
theorem advanceSecondField_of_wrapsNow {s : State} (h : wrapsNow s) :
    advanceSecondField (armLeap s) = { s with ct := { s.ct with second := 0 }, leapState := .normal } := by
  obtain hdel | hafter | ⟨hnormal, hsecond, hins⟩ := h
  · rw [armLeap_of_deletesNow hdel]
    rfl
  · rw [armLeap_of_not_normal (by simp [hafter])]
    simp [advanceSecondField, hafter]
  · have hdel : ¬deletesNow s := fun ⟨_, h58, _⟩ => absurd (hsecond.symm.trans h58) (by decide)
    rw [armLeap_of_unarmed hdel hins]
    simp [advanceSecondField, hnormal, hsecond]

/-- The ripple of a minute in its range, in the terms of the calendar (40_civil_time.md R107). -/
theorem rippleMinute_atSecondZero {s : State} (h : civilInRange s.ct) :
    rippleMinute { s with ct := { s.ct with second := 0 }, leapState := .normal } =
      unreduced s (rippledHour s.ct) s.dst s.off := by
  obtain ⟨-, -, -, -, hminute, -⟩ := h
  by_cases h59 : s.ct.minute.toNat = 59
  · simp [rippleMinute, unreduced, rippledHour, rippledMinute, h59, BitVec.ofNat_add]
  · have hlt : ¬60 ≤ s.ct.minute.toNat + 1 := by omega
    simp only [rippleMinute, unreduced, rippledHour, rippledMinute, h59, hlt, if_false]
    simp [BitVec.ofNat_add]

theorem advanceMinute_of_wrapsNow {s : State} (hrange : civilInRange s.ct) (hwraps : wrapsNow s) :
    advanceMinute (advanceSecondField (armLeap s)) = dstSwitch (unreduced s (rippledHour s.ct) s.dst s.off) := by
  rw [advanceSecondField_of_wrapsNow hwraps, ← rippleMinute_atSecondZero hrange]
  rfl

/-- `DstFire` on what the ripple left is the calendar's condition for a switch (40_civil_time.md R108). -/
theorem dstFire_unreduced {s : State} (h : civilInRange s.ct) :
    dstFire (unreduced s (rippledHour s.ct) s.dst s.off) = true ↔ dstDue s := by
  have hhour := rippledHour_le h
  have hminute := rippledMinute_le h
  simp only [dstFire_iff, minuteOf_eq_iff, dstDue, unreduced, ← BitVec.toNat_inj (x := BitVec.ofNat _ _),
    BitVec.toNat_ofNat]
  rw [Nat.mod_eq_of_lt (by omega), Nat.mod_eq_of_lt (by omega)]

theorem dstSwitch_of_inactive {s : State} (hfire : dstFire s = true) (h : s.dst.active = false) :
    dstSwitch s = .ok (dstActivate s) := by
  simp [dstSwitch, hfire, h]

theorem dstSwitch_of_active {s : State} (hfire : dstFire s = true) (h : s.dst.active = true) :
    dstSwitch s = if s.ct.hour = 0 then .error .dstHourBorrow else .ok (dstDeactivate s) := by
  simp [dstSwitch, hfire, h]

theorem dstActivate_unreduced (s : State) (hour : Nat) :
    dstActivate (unreduced s hour s.dst s.off) = unreduced s (hour + 1)
      { active := true, pend := false, target := s.dst.target } (offsetInc s.off) := by
  simp [dstActivate, unreduced, BitVec.ofNat_add]

theorem dstDeactivate_unreduced (s : State) {hour : Nat} (h : 1 ≤ hour) :
    dstDeactivate (unreduced s hour s.dst s.off) = unreduced s (hour - 1)
      { active := false, pend := false, target := s.dst.target } (offsetDec s.off) := by
  obtain ⟨n, rfl⟩ := Nat.exists_eq_add_of_le' h
  simp [dstDeactivate, unreduced, BitVec.ofNat_add]

/-! ## Steps 4 and 5 -/

/-- The year of the calendar after `y` is the model's, since a year is at most 99. -/
theorem nextYear_eq {y : YearReg} (h : y.toNat ≤ 99) :
    nextYear y = BitVec.ofNat 7 (if y = 99 then 0 else y.toNat + 1) := by
  unfold nextYear
  split
  case isTrue h99 => simp [h99]
  case isFalse hne => rw [Nat.mod_eq_of_lt (by bv_omega)]

theorem normalizeHour_of_lt {s : State} (h : s.ct.hour.toNat < 24) : normalizeHour s = s :=
  if_neg (by omega)

theorem normalizeHour_of_ge {s : State} (h : 24 ≤ s.ct.hour.toNat) :
    normalizeHour s = { s with ct := { s.ct with hour := s.ct.hour - 24, day := s.ct.day + 1 } } := if_pos h

theorem rollYear_of_le {s : State} (h : s.ct.day.toNat ≤ yearLength s.ct.year) : rollYear s = (s, false) :=
  if_neg (by omega)

theorem rollYear_of_lt {s : State} (h : yearLength s.ct.year < s.ct.day.toNat) :
    rollYear s = ({ s with ct := { s.ct with day := 1, year := nextYear s.ct.year } }, s.cfg.leapWarn) := if_pos h

theorem yearLength_le (y : YearReg) : yearLength y ≤ 366 := by
  unfold yearLength
  split <;> omega

/-- Steps 4 and 5 settle an hour of at most 25 by the calendar; the extra group is due exactly on a year rollover under a
leap warning (40_civil_time.md R112 to R114). -/
theorem rollYear_normalizeHour_unreduced {s : State} (hrange : civilInRange s.ct) {hour : Nat} (hh : hour ≤ 25)
    (dst : DstState) (off : Offset) :
    rollYear (normalizeHour (unreduced s hour dst off)) =
      (atNewMinute s hour dst off, yearRolls s.ct hour && s.cfg.leapWarn) := by
  obtain ⟨hyear, -, hday, -, -, -⟩ := hrange
  have hlen := yearLength_le s.ct.year
  have hhour : (BitVec.ofNat 5 hour).toNat = hour := Nat.mod_eq_of_lt (by omega)
  by_cases h24 : hour < 24
  · rw [normalizeHour_of_lt (by simpa [unreduced, hhour] using h24), rollYear_of_le (s := unreduced s hour dst off) hday]
    simp [unreduced, atNewMinute, settled, yearRolls, h24]
  have hsub : BitVec.ofNat 5 hour - 24 = BitVec.ofNat 5 (hour - 24) := by bv_omega
  have hnext : (s.ct.day + 1).toNat = s.ct.day.toNat + 1 := by bv_omega
  rw [normalizeHour_of_ge (by simpa [unreduced, hhour] using h24)]
  simp only [unreduced, atNewMinute, settled, yearRolls, h24, hsub]
  by_cases hlast : s.ct.day.toNat = yearLength s.ct.year
  · rw [rollYear_of_lt (by simp only [hnext]; omega)]
    simp [hlast, nextYear_eq hyear]
    omega
  · have hlt : s.ct.day.toNat < yearLength s.ct.year := by omega
    rw [rollYear_of_le (by simp only [hnext]; omega)]
    simp [hlast, hlt]

/-! ## The whole tick -/

/-- A tick that ends the minute, from what its DST test answers. -/
theorem advanceSecond_of_dstSwitch {s : State} (hrange : civilInRange s.ct) (hwraps : wrapsNow s) {hour : Nat}
    (hh : hour ≤ 25) {dst : DstState} {off : Offset}
    (h : dstSwitch (unreduced s (rippledHour s.ct) s.dst s.off) = .ok (unreduced s hour dst off)) :
    advanceSecond s = .ok (atNewMinute s hour dst off, yearRolls s.ct hour && s.cfg.leapWarn) := by
  simp only [advanceSecond, advanceMinute_of_wrapsNow hrange hwraps, h,
    rollYear_normalizeHour_unreduced hrange hh]

end Sys2Proof.Machine
end

section
/-! PROOFS. The statements of 40_civil_time.md on the DST switch, the offset field and the pending flags. -/

namespace Sys2Proof.Proofs

open Sys2Proof.Machine Sys2Proof.Spec

/-- Settles O29: the DST test fires on the rippled hour and the activated state is settled by steps 4 and 5. -/
theorem dstActivationSkipsAnHour : Obligations.DstActivationSkipsAnHour := by
  intro s hrange hwraps hdue hactive
  have hhour := rippledHour_le hrange
  have hfire := (dstFire_unreduced hrange).2 hdue
  apply advanceSecond_of_dstSwitch hrange hwraps (by omega)
  rw [← dstActivate_unreduced]
  exact dstSwitch_of_inactive hfire hactive

/-- Settles O30: the DST test fires on the rippled hour; from 1 on it is lowered and settled, and 0 is refused. -/
theorem dstDeactivationRepeatsAnHour : Obligations.DstDeactivationRepeatsAnHour := by
  intro s hrange hwraps hdue hactive
  have hhour := rippledHour_le hrange
  have hfire := (dstFire_unreduced hrange).2 hdue
  refine ⟨fun hpos => ?_, fun hzero => ?_⟩
  · apply advanceSecond_of_dstSwitch hrange hwraps (by omega)
    have hne : BitVec.ofNat 5 (rippledHour s.ct) ≠ 0 := by bv_omega
    rw [dstSwitch_of_active hfire hactive, ← dstDeactivate_unreduced s hpos]
    exact if_neg hne
  · have hswitch := dstSwitch_of_active hfire hactive
    rw [if_pos (by simp [unreduced, hzero])] at hswitch
    simp only [advanceSecond, advanceMinute_of_wrapsNow hrange hwraps, hswitch]

/-- Settles O31, from the denotation of the two offset functions. -/
theorem offsetStepsAreOneHour : Obligations.OffsetStepsAreOneHour := fun o =>
  ⟨offsetInc_half o, offsetDec_half o, offsetHalfHours_offsetInc o, offsetHalfHours_offsetDec o,
    offsetHalfHours_offsetDec_offsetInc o, offsetDec_offsetInc⟩

/-- Settles O33, from the tuple matches. -/
theorem pendingFlagsFollowTheTargets : Obligations.PendingFlagsFollowTheTargets := fun s =>
  ⟨leapSecondPending_iff s, leapPolarity_iff s, dstPendingFlag_iff s⟩

end Sys2Proof.Proofs
end

section
/-! SUPPORT and proofs: what each pulse operation sends (42_pulse_ops.md R170 to R193). First the rules: which operations
a format admits, what the shared steps of an operation send, what the decoder answers on an operation number. Then the
nine statements on operations 0 to 12. -/

namespace Sys2Proof.Machine

open Sys2Proof.Spec

/-! ## Which operations a format admits (R178) -/

theorem admitted_of_admittedInIrig {i : Instr} (h : admittedInIrig i = true) (f : Format) : admitted f i = true := by
  simp [admitted, h]

theorem admitted_of_wwv {f : Format} (h : f.irig = false) (i : Instr) : admitted f i = true := by
  simp [admitted, h]

theorem exec_of_not_admittedInIrig {i : Instr} {s : State} (hf : s.cfg.fmt.irig = true)
    (h : admittedInIrig i = false) : exec i s = .next (faulted s .formatFault) :=
  exec_of_not_admitted (by simp [admitted, hf, h])

/-! ## What the shared steps of an operation send -/

/-- The answer is a next state, and `post` holds of it. -/
def answers (r : Result) (post : State → Prop) : Prop :=
  ∃ t, r = .next t ∧ post t

theorem ifAdmitted_answers {i : Instr} {s : State} {run : Result} {post : State → Prop}
    (ha : admitted s.cfg.fmt i = true) (h : answers run post) : answers (ifAdmitted i s run) post := by
  rwa [ifAdmitted_of_admitted ha]

theorem withDecrement_answers {s : State} {run : State → Result} {post : State → Prop} (hc : s.cur ≠ 0)
    (h : answers (run (movedLeft s)) post) : answers (withDecrement s run) post := by
  rw [withDecrement_of_ne hc]
  exact h

theorem send_answers (kind : PulseKind) (tick : Bool) (s : State) :
    answers (send kind tick s) (kindSent kind s tick) :=
  ⟨_, send_eq .., send_sent ..⟩

theorem withKind_answers {arg : Argument} {kind : PulseKind} (h : kindOfArg arg = some kind) (s : State)
    (tick : Bool) : answers (withKind arg s fun k => send k tick s) (kindSent kind s tick) := by
  simpa only [withKind, h] using send_answers kind tick s

/-- A Boolean flag is sent as a one or a zero (R177). -/
theorem kindSent_flagKind (v : Bool) : kindSent (flagKind v) = bitSent v := by
  cases v <;> rfl

/-- A masked digit is sent as a one exactly where the mask meets it (R177). -/
theorem kindSent_bitTest (v : Digit) (mask : Argument) :
    kindSent (bitTest v mask) = bitSent (decide (v &&& mask ≠ 0)) := by
  have hflag : (v &&& mask != 0) = decide (v &&& mask ≠ 0) := Bool.eq_iff_iff.2 (by simp)
  rw [bitTest, kindSent_flagKind, hflag]

theorem send_flagKind_answers (v : Bool) (s : State) : answers (send (flagKind v) true s) (bitSent v s true) := by
  simpa only [kindSent_flagKind] using send_answers (flagKind v) true s

theorem send_bitTest_answers (v : Digit) (mask : Argument) (s : State) :
    answers (send (bitTest v mask) true s) (bitSent (decide (v &&& mask ≠ 0)) s true) := by
  simpa only [kindSent_bitTest] using send_answers (bitTest v mask) true s

/-- With the cursor inside the active buffer the bit test reads the digit there (20_memory.md R66). -/
theorem withDigit_answers {s : State} (h : s.cur.toNat ≤ (lastIndex s.cfg.fmt).toNat) (mask : Argument) :
    ∃ (d : Digit) (t : State), bufRead s s.cur.toNat = some d ∧
      withDigit s (fun d => send (bitTest d mask) true s) = .next t ∧
      bitSent (decide (d &&& mask ≠ 0)) s true t := by
  obtain ⟨d, hd⟩ := bufRead_of_le h
  obtain ⟨t, hrun, hsent⟩ := send_bitTest_answers d mask s
  exact ⟨d, t, hd, by simp only [withDigit, hd, hrun], hsent⟩

theorem movedLeft_cur_toNat {s : State} (h : s.cur ≠ 0) : (movedLeft s).cur.toNat = s.cur.toNat - 1 := by
  have := decrement_toNat h
  change (s.cur - 1).toNat = _
  omega

/-! ## The kind form (R83, R180, R181) -/

theorem exec_sendData_answers {arg : Argument} {kind : PulseKind} (h : kindOfArg arg = some kind) (s : State) :
    answers (exec (.sendData arg) s) (kindSent kind s true) :=
  ifAdmitted_answers (admitted_of_admittedInIrig rfl _) (withKind_answers h s true)

theorem exec_sendDataNoTick_answers {arg : Argument} {kind : PulseKind} (h : kindOfArg arg = some kind) {s : State}
    (hf : s.cfg.fmt.irig = false) : answers (exec (.sendDataNoTick arg) s) (kindSent kind s false) :=
  ifAdmitted_answers (admitted_of_wwv hf _) (withKind_answers h s false)

theorem wf_of_kind_ge {arg : Argument} (h : 3 ≤ arg.toNat) :
    (Instr.sendData arg).wf = false ∧ (Instr.sendDataNoTick arg).wf = false := by
  have hk : kindLegal arg = false := decide_eq_false (by omega)
  exact ⟨hk, hk⟩

/-! ## What the decoder answers on an operation number -/

/-- An entry of a given operation number and argument decodes by its two fields (30_encoding.md R80, R81). -/
theorem decode_append (op : OpNumber) (arg : Argument) : decode (op ++ arg) = decodeFields op arg := by
  obtain ⟨hop, harg⟩ := Laws.fields_of_append op arg
  rw [decode, hop, harg]

end Sys2Proof.Machine
end

section
/-! PROOFS. The statements of 42_pulse_ops.md on operations 0 to 12. -/

namespace Sys2Proof.Proofs

open Sys2Proof.Machine Sys2Proof.Spec

/-- Settles O12: the three legal kinds are sent, and any other raises ArgFault at the argument check. -/
theorem sendDataSendsItsKind : Obligations.SendDataSendsItsKind := fun s =>
  ⟨exec_sendData_answers (kind := .zero) rfl s, exec_sendData_answers (kind := .one) rfl s,
    exec_sendData_answers (kind := .pi) rfl s,
    fun _ h => exec_of_not_wf (admitted_of_admittedInIrig rfl _) (wf_of_kind_ge h).1, fun _ => rfl⟩

/-- Settles O13: the format check comes first, then the argument check, and a legal kind is sent without tick. -/
theorem sendDataNoTickSendsItsKind : Obligations.SendDataNoTickSendsItsKind := by
  refine fun s => ⟨fun hwwv => ?_, fun hirig kind => exec_of_not_admittedInIrig hirig rfl, fun _ => rfl⟩
  exact ⟨exec_sendDataNoTick_answers (kind := .zero) rfl hwwv, exec_sendDataNoTick_answers (kind := .one) rfl hwwv,
    exec_sendDataNoTick_answers (kind := .pi) rfl hwwv,
    fun _ h => exec_of_not_wf (admitted_of_wwv hwwv _) (wf_of_kind_ge h).2⟩

/-- Settles O14: the digit is read at the cursor of the state the pulse is sent from. -/
theorem sendCoefficientBitTestsTheCursorDigit : Obligations.SendCoefficientBitTestsTheCursorDigit := by
  refine fun s mask => ⟨fun hc => ?_, rfl⟩
  rw [← lastIndex_toNat] at hc
  obtain ⟨d, t, hread, hrun, hsent⟩ := withDigit_answers hc mask
  have hadm := admitted_of_admittedInIrig (i := .sendCoefficientBit mask) rfl s.cfg.fmt
  exact ⟨d, t, hread, (ifAdmitted_of_admitted hadm _).trans hrun, hsent⟩

/-- Settles O15: the digit is read after the move, one place left of the cursor on entry. -/
theorem decrementSendBitTestsTheNewDigit : Obligations.DecrementSendBitTestsTheNewDigit := by
  intro s mask
  have hadm := admitted_of_admittedInIrig (i := .decrementSendBit mask) rfl s.cfg.fmt
  refine ⟨fun h0 hc => ?_, fun h0 => exec_of_underrun hadm (.inr (.inl rfl)) h0, rfl⟩
  rw [← lastIndex_toNat] at hc
  obtain ⟨d, t, hread, hrun, hsent⟩ := withDigit_answers (s := movedLeft s) (cursorLeft_inside h0 hc) mask
  rw [movedLeft_cur_toNat h0] at hread
  exact ⟨d, t, hread, (ifAdmitted_of_admitted hadm _).trans ((withDecrement_of_ne h0 _).trans hrun), hsent⟩

/-- Settles O16: both operations pass the format check, then move or underrun, and send from the moved state. -/
theorem decrementOperationsMoveAndSend : Obligations.DecrementOperationsMoveAndSend := by
  intro s
  have hpi := admitted_of_admittedInIrig (i := .decrementSendPI) rfl s.cfg.fmt
  have hzero := admitted_of_admittedInIrig (i := .decrementSendZero) rfl s.cfg.fmt
  refine ⟨fun h0 => ⟨decrement_toNat h0, ?_, ?_⟩, fun h0 => ⟨?_, ?_⟩, fun arg => ⟨?_, ?_⟩⟩
  · exact ifAdmitted_answers hpi (withDecrement_answers h0 (send_answers .pi true _))
  · exact ifAdmitted_answers hzero (withDecrement_answers h0 (send_answers .zero true _))
  · exact exec_of_underrun hpi (by decide) h0
  · exact exec_of_underrun hzero (by decide) h0
  · exact decode_append 3 arg
  · exact decode_append 5 arg

/-- Settles O17: the format check comes before the decrement, and the pulse is sent from the moved state. -/
theorem decrementNoTickPIMovesAndSends : Obligations.DecrementNoTickPIMovesAndSends := by
  refine fun s => ⟨fun hwwv => ⟨fun h0 => ?_, fun h0 => ?_⟩, fun hirig => ?_, decode_append 7⟩
  · exact ifAdmitted_answers (admitted_of_wwv hwwv _) (withDecrement_answers h0 (send_answers .pi false _))
  · exact exec_of_underrun (admitted_of_wwv hwwv _) (by decide) h0
  · exact exec_of_not_admittedInIrig hirig rfl

/-- Settles O18: the operation is `Send` of a position indicator, which is what SendData runs on kind 2. -/
theorem noDecrementPISendsAMarker : Obligations.NoDecrementPISendsAMarker := by
  have hadm : ∀ f, admitted f .noDecrementPI = true := admitted_of_admittedInIrig rfl
  have hdata : ∀ f, admitted f (.sendData 2) = true := admitted_of_admittedInIrig rfl
  refine ⟨fun s => ifAdmitted_answers (hadm _) (send_answers .pi true s), fun s => ?_, decode_append 6⟩
  calc exec .noDecrementPI s
      = send .pi true s := ifAdmitted_of_admitted (hadm _) _
    _ = exec (.sendData 2) s := (ifAdmitted_of_admitted (hdata _) _).symm

/-- Settles O19: the format check, then the marker group. -/
theorem minuteMarkerSendsTheMarker : Obligations.MinuteMarkerSendsTheMarker := fun s =>
  ⟨fun hwwv => ⟨_, ifAdmitted_of_admitted (admitted_of_wwv hwwv _) _, wwvMarker_sent s⟩,
    fun hirig => exec_of_not_admittedInIrig hirig rfl, decode_append 8⟩

/-- Settles O20: each operation passes the format check in WWV and sends its own flag. -/
theorem flagOperationsSendTheirFlag : Obligations.FlagOperationsSendTheirFlag := by
  intro s mask
  refine ⟨fun hwwv => ?_, fun hirig i hi => ?_, decode_append 9 mask, decode_append 10 mask, decode_append 11 mask,
    decode_append 12 mask⟩
  · have hadm := admitted_of_wwv hwwv
    exact ⟨ifAdmitted_answers (hadm .leapWarningBit) (send_flagKind_answers s.cfg.leapWarn s),
      ifAdmitted_answers (hadm (.dut1Bit mask)) (send_bitTest_answers s.cfg.dut1 mask s),
      ifAdmitted_answers (hadm .dst1Bit) (send_flagKind_answers s.dst.active s),
      ifAdmitted_answers (hadm .dst2Bit) (send_flagKind_answers s.dst.active s)⟩
  · refine exec_of_not_admittedInIrig hirig ?_
    simp only [List.mem_cons, List.not_mem_nil, or_false] at hi
    obtain rfl | rfl | rfl | rfl := hi <;> rfl

end Sys2Proof.Proofs
end

section
/-! SUPPORT and proofs: the durations of IRIG-B (42_pulse_ops.md R174, R196). First the rules: the sum of a bit, what one
bit position of the loop emits, and the loop's running sum. Then the statement. -/

namespace Sys2Proof.Machine

open Sys2Proof.Spec

/-! ## One bit -/

theorem totalMs_append (ps qs : List PulseSpec) : totalMs (ps ++ qs) = totalMs ps + totalMs qs := by
  simp [totalMs]

theorem totalMs_irigBit (c : Config) (kind : PulseKind) (b : PositionReg) (rc : RcMode) :
    (totalMs (irigBit c kind b rc) : Int) = 10 + (if b = c.irigRcBit then irigMs rc else 0) := by
  have hadj := irigAdj_bounds c b rc
  have hquiet := intervalMs_toNat (v := 10 - irigMark kind + irigAdj c b rc)
  rw [← irigAdj_eq]
  cases kind <;> simp [totalMs, irigBit, irigMark] at hquiet ⊢ <;> omega

/-- In IRIG-B format an entry that raises nothing appends one bit of some kind, at its own position. -/
theorem entryEffect_emits_irigBit {s t : State} (hirig : s.cfg.fmt.irig = true) (h : entryEffect s t)
    (hf : t.fault = false) : ∃ kind, t.out = s.out ++ irigBit s.cfg kind s.bitIndex s.rc := by
  obtain ⟨c, -, rfl⟩ | ⟨ps, hgroup, ht⟩ := h
  · cases hf
  obtain ⟨kind, tick, rfl⟩ | ⟨hwwv, -⟩ := hgroup
  · refine ⟨kind, ?_⟩
    obtain rfl | ⟨-, rfl⟩ := ht <;> simp [sendGroup, hirig]
  · rw [hirig] at hwwv
    cases hwwv

/-! ## The loop over bit positions -/

/-- How the loop stands before bit `b` of an IRIG-B second that began with output `pre` in configuration `c`: nothing but
the descriptors of the bits so far is appended, two a bit, 10 ms a bit and the rate correction once its bit is past. -/
structure IrigBitsSent (c : Config) (rc : RcMode) (pre : List PulseSpec) (b : Nat) (s : State) : Prop where
  cfg : s.cfg = c
  rate : s.rc = rc
  sent : ∃ ps, s.out = pre ++ ps ∧ ps.length = 2 * b ∧
    (totalMs ps : Int) = 10 * b + (if c.irigRcBit.toNat < b then irigMs rc else 0)

theorem irigBitsSent_zero (s : State) : IrigBitsSent s.cfg s.rc s.out 0 s :=
  ⟨rfl, rfl, [], by simp [totalMs]⟩

theorem irigBitsSent_succ {c : Config} {rc : RcMode} {pre : List PulseSpec} {b : Nat} {s t : State}
    (hirig : c.fmt.irig = true) (hb : b < 100) (hs : IrigBitsSent c rc pre b s) (h : runBit b s = .next t)
    (hf : t.fault = false) : IrigBitsSent c rc pre (b + 1) t := by
  obtain ⟨rfl, rfl, ps, hout, hlen, hsum⟩ := hs
  obtain ⟨hcfg, -, -, -, -, -, -, hrc⟩ := sameOutsideEncoder_runBit h
  obtain ⟨kind, hbit⟩ := entryEffect_emits_irigBit (s := s.atBit b) hirig (runBit_effect h) hf
  refine ⟨hcfg, hrc, ps ++ irigBit s.cfg kind (BitVec.ofNat 7 b) s.rc, ?_, ?_, ?_⟩
  · simpa [hout] using hbit
  · simp [irigBit, hlen]
    omega
  · have hpos : BitVec.ofNat 7 b = s.cfg.irigRcBit ↔ b = s.cfg.irigRcBit.toNat := by
      rw [← BitVec.toNat_inj, BitVec.toNat_ofNat, Nat.mod_eq_of_lt (by omega)]
    rw [totalMs_append, Nat.cast_add, hsum, totalMs_irigBit]
    simp only [hpos]
    split_ifs <;> omega

/-- The 100 bits of a second that raises nothing, whatever the tables and the map hold. -/
theorem irigBitsSent_of_encodeIrig {s t : State} (hirig : s.cfg.fmt.irig = true) (h : encodeIrig s = .next t)
    (hf : t.fault = false) : IrigBitsSent s.cfg s.rc s.out 100 t :=
  runBits_rule (Q := fun t => t.fault = false → IrigBitsSent s.cfg s.rc s.out 100 t) 100
    (fun _ _ _ hb hu hw hwf => irigBitsSent_succ hirig hb hu hw hwf)
    (fun _ _ _ _ _ _ hraised hclear => absurd hraised (by simp [hclear]))
    (fun _ hu _ => ⟨hu.cfg, hu.rate, hu.sent⟩)
    100 0 (irigPrepare s) t rfl (irigBitsSent_zero (irigPrepare s)) h hf

/-! ## The TICK around it -/

theorem irigRcBit_of_codesLegal {c : Config} (h : codesLegal c = true) : c.irigRcBit = 42 ∨ c.irigRcBit = 43 := by
  simp only [codesLegal, Bool.and_eq_true, Bool.or_eq_true, beq_iff_eq] at h
  obtain ⟨⟨-, hbit⟩, -⟩ := h
  exact hbit

theorem tickCommand_of_running {s : State} {code : RcPort} {rc : RcMode} (hloaded : s.loaded = true)
    (hfault : s.fault = false) (hcode : rcOfCode code = some rc) :
    tickCommand code s = finishTick (runTick (s.beginTick rc)) := by
  simp [tickCommand, hloaded, hfault, hcode]

theorem runTick_of_advanceSecond {s u : State} {extra : Bool} (h : advanceSecond s = .ok (u, extra)) :
    runTick s = encodeSecond (emitExtra extra u) := by
  simp [runTick, h]

/-- A TICK that advances is the encoding of the second after the extra group (60_exceptions.md R271). -/
theorem step_of_tickAdvances {s u : State} {rc : RcMode} {rest : List Command} {extra : Bool}
    (h : tickAdvances s rc rest u extra) : step s = finishTick (encodeSecond (emitExtra extra u)) := by
  obtain ⟨hloaded, hfault, ⟨code, hcmds, hcode⟩, hadv⟩ := h
  calc step s
      = tickCommand code { s with cmds := rest } := by simp only [step, runCommand, hcmds]
    _ = finishTick (runTick (State.beginTick { s with cmds := rest } rc)) :=
        tickCommand_of_running hloaded hfault hcode
    _ = finishTick (encodeSecond (emitExtra extra u)) := congrArg finishTick (runTick_of_advanceSecond hadv)

/-- The state a TICK that advances encodes from: the configuration as loaded, the rate correction as sampled, and nothing
emitted (60_exceptions.md R271). -/
theorem tickAdvances_keeps {s u : State} {rc : RcMode} {rest : List Command} {extra : Bool}
    (h : tickAdvances s rc rest u extra) : u.cfg = s.cfg ∧ u.rc = rc ∧ u.out = [] := by
  obtain ⟨-, -, -, hadv⟩ := h
  obtain ⟨-, -, -, -, -, hcfg, -, hrc, hout, -⟩ := sameOutsideCivil_advanceSecond hadv
  exact ⟨hcfg, hrc, hout⟩

theorem emitExtra_eq (extra : Bool) (u : State) : emitExtra extra u = u.emitAll (extraGroup u extra) := by
  cases extra <;> simp [emitExtra, extraGroup, State.emitAll]

end Sys2Proof.Machine
end

section
/-! PROOFS. The statement of 42_pulse_ops.md on the durations of IRIG-B. -/

namespace Sys2Proof.Proofs

open Sys2Proof.Machine Sys2Proof.Spec

/-- Settles O43: the bits' sums add up along the loop, and the bit of the rate correction is one of the 100. -/
theorem irigSecondDurationSum : Obligations.IrigSecondDurationSum := by
  refine ⟨fun c kind b rc => ⟨rfl, totalMs_irigBit c kind b rc⟩, ?_⟩
  intro s u t rc rest extra hinv hirig hadv hstep hclear
  obtain ⟨hcfg, rfl, hout⟩ := tickAdvances_keeps hadv
  obtain ⟨w, hw, rfl⟩ := finishTick_next ((step_of_tickAdvances hadv).symm.trans hstep)
  rw [← hcfg] at hirig
  rw [emitExtra_eq, encodeSecond, if_pos (by simpa using hirig)] at hw
  obtain ⟨-, -, ps, hps, hlen, hsum⟩ := irigBitsSent_of_encodeIrig (by simpa using hirig) hw hclear
  have hbit : u.cfg.irigRcBit.toNat < 100 := by
    obtain ⟨-, hcodes⟩ := hinv.config
    rw [hcfg]
    obtain h | h := irigRcBit_of_codesLegal hcodes <;> simp [h]
  refine ⟨ps, by simpa [hout] using hps, hlen, ?_⟩
  simpa [hbit] using hsum

end Sys2Proof.Proofs
end

section
/-! SUPPORT and proofs: the digits of the two buffers and the bits of the control-functions word (43_bcd_encoder.md R220
to R229). First the rules: the value of a digit, of each group of digits, and the word as its list of bits. Then the
three statements. -/

namespace Sys2Proof.Machine

/-! ## The value of a digit (R221, R229) -/

@[simp] theorem decimalDigit_toNat (v k : Nat) : (decimalDigit v k).toNat = v / 10 ^ k % 10 := by
  have : v / 10 ^ k % 10 < 10 := Nat.mod_lt _ (by decide)
  rw [decimalDigit, BitVec.toNat_ofNat, Nat.mod_eq_of_lt (by omega)]

@[simp] theorem hexDigit_toNat (v k : Nat) : (hexDigit v k).toNat = v / 16 ^ k % 16 := by
  simp [hexDigit]

/-! ## The groups of the buffers (R225 to R227, R229) -/

theorem hex5_map_toNat (v : Nat) :
    (hex5 v).map BitVec.toNat = [v / 65536 % 16, v / 4096 % 16, v / 256 % 16, v / 16 % 16, v % 16] := by
  simp [hex5]

theorem yearDigits_map_toNat (s : State) : (yearDigits s).map BitVec.toNat =
    [if s.cfg.fmt.year then s.ct.year.toNat / 10 % 10 else 0, if s.cfg.fmt.year then s.ct.year.toNat % 10 else 0] := by
  unfold yearDigits
  split <;> simp

theorem dayTimeDigits_map_toNat (t : CivilTime) : (dayTimeDigits t).map BitVec.toNat =
    [t.day.toNat / 1000 % 10, t.day.toNat / 100 % 10, t.day.toNat / 10 % 10, t.day.toNat % 10,
     t.hour.toNat / 10 % 10, t.hour.toNat % 10, t.minute.toNat / 10 % 10, t.minute.toNat % 10,
     t.second.toNat / 10 % 10, t.second.toNat % 10] := by
  simp [dayTimeDigits]

/-- The bound is met at 23:59:60, the inserted second. -/
theorem sbs_le {t : CivilTime} (h : civilInRange t) : sbs t ≤ 86400 := by
  obtain ⟨-, -, -, hhour, hminute, hsecond⟩ := h
  unfold sbs
  omega

/-! ## The control-functions word (R228) -/

/-- Bits 0 to 13 of the control-functions word under IEEE-1344, bit 0 first: everything but the parity. -/
def cfFields (s : State) : List Bool :=
  [leapSecondPending s, leapPolarity s, dstPendingFlag s, s.dst.active, s.off.sign,
   s.off.hours.getLsbD 0, s.off.hours.getLsbD 1, s.off.hours.getLsbD 2, s.off.hours.getLsbD 3, s.off.half,
   s.cfg.tq.getLsbD 0, s.cfg.tq.getLsbD 1, s.cfg.tq.getLsbD 2, s.cfg.tq.getLsbD 3]

theorem cfFields_length (s : State) : (cfFields s).length = 14 := rfl

/-- The assembled word read bit by bit: the fields, then the parity. -/
theorem getLsbD_cfAssemble (s : State) (p : Bool) (i : Nat) :
    (cfAssemble s p).getLsbD i = (cfFields s ++ [p]).getD i false := by
  by_cases hi : i < 15
  · -- the sum of the parts' widths, which the lemma on appended words needs to see
    change BitVec.getLsbD (w := 1 + 4 + 1 + 4 + 1 + 1 + 1 + 1 + 1) (cfAssemble s p) i = _
    simp only [cfAssemble, BitVec.getLsbD_append, BitVec.getLsbD_ofBool]
    interval_cases i <;> simp [cfFields]
  · rw [BitVec.getLsbD_of_ge _ _ (by omega), List.getD_eq_default _ _ (by simp [cfFields_length]; omega)]

/-- The parity reaches bit 14 and no other bit. -/
theorem cfAssemble_clear_parity (s : State) (p : Bool) : cfAssemble s p &&& 0x3FFF#15 = cfAssemble s false := by
  have hmask : ∀ i < 15, (0x3FFF#15).getLsbD i = decide (i < 14) := by decide
  apply BitVec.eq_of_getLsbD_eq
  intro i hi
  rw [BitVec.getLsbD_and, hmask i hi, getLsbD_cfAssemble, getLsbD_cfAssemble]
  obtain hfield | rfl : i < 14 ∨ i = 14 := by omega
  · rw [List.getD_append _ _ _ _ hfield, List.getD_append _ _ _ _ hfield]
    simp [hfield]
  · simp [cfFields]

theorem cfWord_of_not_ieee {s : State} (h : s.cfg.fmt.ieee = false) : cfWord s = 0 := by
  simp [cfWord, h]

theorem cfWord_of_ieee {s : State} (h : s.cfg.fmt.ieee = true) : cfWord s = cfAssemble s (parity s) := by
  simp [cfWord, h]

theorem cfData_eq_cfWord_and (s : State) : cfData s = cfWord s &&& 0x3FFF#15 := by
  unfold cfData cfWord
  split
  · exact (cfAssemble_clear_parity s (parity s)).symm
  · rfl

end Sys2Proof.Machine
end

section
/-! PROOFS. The statements of 43_bcd_encoder.md on the digits of the buffers and the control-functions word. -/

namespace Sys2Proof.Proofs

open Sys2Proof.Machine Sys2Proof.Spec

/-- Settles O36: each bit of the word is its entry in the list of bits. -/
theorem controlFunctionBits : Obligations.ControlFunctionBits := by
  intro s
  refine ⟨cfData_eq_cfWord_and s, cfWord_of_not_ieee, fun hieee => ?_⟩
  simp only [cfWord_of_ieee hieee, getLsbD_cfAssemble]
  refine ⟨rfl, rfl, rfl, rfl, rfl, fun k hk => ?hours, rfl, fun k hk => ?quality, rfl⟩
  case hours => interval_cases k <;> rfl
  case quality => interval_cases k <;> rfl

/-- Settles O34, from the value of a decimal digit. -/
theorem wwvBufferDigits : Obligations.WwvBufferDigits := by
  intro t
  simp [wwvBuffer, decimalDigit_toNat]

/-- Settles O35, from the values of the buffer's four groups and the bound of the straight binary seconds. -/
theorem irigBufferDigits : Obligations.IrigBufferDigits := by
  intro s
  refine ⟨?_, sbs_le⟩
  simp only [irigBuffer, List.map_append, hex5_map_toNat, yearDigits_map_toNat, dayTimeDigits_map_toNat]
  rfl

end Sys2Proof.Proofs
end

section
/-! SUPPORT and proofs: the parity of the code word (44_parity.md R250 to R253). First the rules: the count of 1 bits over
a list, the count in the hex digits of a word, the groups the parity covers, and the bounds of their counts. Then the
statement. -/

namespace Sys2Proof.Machine

open Sys2Proof.Spec

/-! ## Counting 1 bits one by one -/

@[simp] theorem onesIn_nil : onesIn [] = 0 := rfl

@[simp] theorem onesIn_cons (d : Digit) (ds : List Digit) : onesIn (d :: ds) = popcount4 d + onesIn ds := by
  simp only [onesIn, popcount4, List.flatMap_cons, List.countP_append, List.countP_cons, List.countP_nil, id, Bool.toNat,
    Bool.cond_eq_ite]
  omega

@[simp] theorem onesIn_append (ds es : List Digit) : onesIn (ds ++ es) = onesIn ds + onesIn es := by
  simp [onesIn]

/-- The generator's sum of population counts (R250) is the count of the bits. -/
theorem popcountSum_eq_onesIn (ds : List Digit) : popcountSum ds = onesIn ds := by
  induction ds with
  | nil => rfl
  | cons d ds ih => simpa [popcountSum] using ih

/-! ## The 1 bits of the control-functions digits (R228, R229) -/

theorem hexDigit_getLsbD (v k : Nat) {j : Nat} (hj : j < 4) : (hexDigit v k).getLsbD j = v.testBit (4 * k + j) := by
  have hpow : 16 ^ k = 2 ^ (4 * k) := by rw [pow_mul]; rfl
  rw [hexDigit, BitVec.getLsbD_ofNat, hpow, show 16 = 2 ^ 4 from rfl, Nat.testBit_mod_two_pow,
    Nat.testBit_div_two_pow]
  simp [hj, Nat.add_comm]

theorem popcount4_hexDigit (v k : Nat) : popcount4 (hexDigit v k) =
    (v.testBit (4 * k)).toNat + (v.testBit (4 * k + 1)).toNat + (v.testBit (4 * k + 2)).toNat +
      (v.testBit (4 * k + 3)).toNat := by
  simp (disch := decide) only [popcount4, hexDigit_getLsbD, Nat.add_zero]

theorem testBit_cfAssemble (s : State) (p : Bool) (i : Nat) :
    (cfAssemble s p).toNat.testBit i = (cfFields s ++ [p]).getD i false := by
  rw [← getLsbD_cfAssemble, BitVec.getLsbD]

/-- Bit 14 of the word counts once, beside the fields: what R252 rests on. -/
theorem onesIn_hex5_cfAssemble (s : State) (p : Bool) :
    onesIn (hex5 (cfAssemble s p).toNat) = (cfFields s).countP id + p.toNat := by
  simp only [hex5, onesIn_cons, onesIn_nil, popcount4_hexDigit, testBit_cfAssemble]
  simp [cfFields, List.countP_cons, Bool.toNat, Bool.cond_eq_ite]
  omega

/-- The parity bit, set in the control-functions digits, adds itself to their count. -/
theorem onesIn_hex5_cfWord {s : State} (h : s.cfg.fmt.ieee = true) :
    onesIn (hex5 (cfWord s).toNat) = onesIn (hex5 (cfData s).toNat) + (parity s).toNat := by
  have hdata : cfData s = cfAssemble s false := by simp [cfData, h]
  rw [cfWord_of_ieee h, hdata, onesIn_hex5_cfAssemble, onesIn_hex5_cfAssemble]
  rfl

theorem onesIn_hex5_cfData_le (s : State) : onesIn (hex5 (cfData s).toNat) ≤ 14 := by
  unfold cfData
  split
  · rw [onesIn_hex5_cfAssemble]
    exact List.countP_le_length
  · decide

/-! ## The digits the parity covers (R251) -/

theorem irigBuffer_drop_ten (s : State) : (irigBuffer s).drop 10 = yearDigits s ++ dayTimeDigits s.ct := rfl

theorem irigBuffer_drop_five (s : State) :
    (irigBuffer s).drop 5 = hex5 (cfWord s).toNat ++ (irigBuffer s).drop 10 := rfl

theorem parity_iff {s : State} (h : s.cfg.fmt.ieee = true) :
    parity s = true ↔ onesIn (hex5 (cfData s).toNat ++ (irigBuffer s).drop 10) % 2 = 1 := by
  rw [irigBuffer_drop_ten, ← List.append_assoc, ← popcountSum_eq_onesIn]
  simp [parity, h]

theorem onesIn_mod_two_eq_parity {s : State} (h : s.cfg.fmt.ieee = true) :
    onesIn (hex5 (cfData s).toNat ++ (irigBuffer s).drop 10) % 2 = (parity s).toNat := by
  have hiff := parity_iff h
  cases hbit : parity s with
  | false => simpa [hbit] using hiff
  | true => simpa [hbit] using hiff.mp hbit

/-! ## The bound of the count (R252) -/

theorem popcount4_le_of_le_nine : ∀ d : Digit, d.toNat ≤ 9 → popcount4 d ≤ 3 := by decide

theorem onesIn_le_of_decimal {ds : List Digit} (h : ∀ d ∈ ds, d.toNat ≤ 9) : onesIn ds ≤ 3 * ds.length := by
  induction ds with
  | nil => simp
  | cons d ds ih =>
    have hd := popcount4_le_of_le_nine d (h d List.mem_cons_self)
    have hds := ih fun e he => h e (List.mem_cons_of_mem d he)
    rw [onesIn_cons, List.length_cons]
    omega

theorem decimalDigit_le (v k : Nat) : (decimalDigit v k).toNat ≤ 9 := by
  rw [decimalDigit_toNat]
  omega

theorem yearDigits_decimal (s : State) : ∀ d ∈ yearDigits s, d.toNat ≤ 9 := by
  unfold yearDigits
  split <;> simp [decimalDigit_le, -decimalDigit_toNat]

theorem yearDigits_length (s : State) : (yearDigits s).length = 2 := by
  unfold yearDigits
  split <;> rfl

theorem dayTimeDigits_decimal (t : CivilTime) : ∀ d ∈ dayTimeDigits t, d.toNat ≤ 9 := by
  simp [dayTimeDigits, decimalDigit_le, -decimalDigit_toNat]

/-- The day register holds at most 511, so the thousands digit of the day is 0 on every state, in range or not. -/
theorem dayTimeDigits_eq_zero_cons (t : CivilTime) : dayTimeDigits t = 0 :: (dayTimeDigits t).tail := by
  have hthousands : decimalDigit t.day.toNat 3 = 0 := by
    apply BitVec.eq_of_toNat_eq
    rw [decimalDigit_toNat]
    have := t.day.isLt
    change t.day.toNat / 10 ^ 3 % 10 = 0
    omega
  simp [dayTimeDigits, hthousands]

/-- Eleven decimal digits of at most three 1 bits each; the twelfth, the day's thousands, has none. -/
theorem onesIn_irigBuffer_drop_ten_le (s : State) : onesIn ((irigBuffer s).drop 10) ≤ 33 := by
  have hyear := onesIn_le_of_decimal (yearDigits_decimal s)
  rw [yearDigits_length] at hyear
  have htime : onesIn (dayTimeDigits s.ct).tail ≤ 27 :=
    onesIn_le_of_decimal fun d hd => dayTimeDigits_decimal s.ct d (List.mem_of_mem_tail hd)
  have hzero : popcount4 0 = 0 := rfl
  rw [irigBuffer_drop_ten, onesIn_append, dayTimeDigits_eq_zero_cons, onesIn_cons, hzero]
  omega

end Sys2Proof.Machine
end

section
/-! PROOFS. The statement of 44_parity.md. -/

namespace Sys2Proof.Proofs

open Sys2Proof.Machine Sys2Proof.Spec

/-- Settles O37: the parity bit adds itself to the count whose parity it is. The 14 control bits and twelve digits of
three would reach 50; the bound is strict because the day's thousands digit is 0. -/
theorem codeWordHasEvenParity : Obligations.CodeWordHasEvenParity := by
  intro s hieee
  refine ⟨parity_iff hieee, ?even, ?bound⟩
  case even =>
    have hparity := onesIn_mod_two_eq_parity hieee
    rw [onesIn_append] at hparity
    rw [irigBuffer_drop_five, onesIn_append, onesIn_hex5_cfWord hieee]
    omega
  case bound =>
    have hcontrol := onesIn_hex5_cfData_le s
    have htime := onesIn_irigBuffer_drop_ten_le s
    rw [onesIn_append]
    omega

end Sys2Proof.Proofs
end

section
/-! SUPPORT and proofs: the host commands (60_exceptions.md R264, R270). First the rules: the answer of a TICK on a stuck
TCE, of a list of them, and of a LOAD. Then the two statements. -/

namespace Sys2Proof.Machine

/-! ## TICK while the fault is set -/

theorem rcOfCode_isSome_of_lt : ∀ code : RcPort, code.toNat < 3 → (rcOfCode code).isSome = true := by decide

theorem tickCommand_of_stuck {s : State} {code : RcPort} (hloaded : s.loaded = true) (hfault : s.fault = true)
    (hcode : code.toNat < 3) : tickCommand code s = .next { s with out := [] } := by
  obtain ⟨rc, hrc⟩ := Option.isSome_iff_exists.mp (rcOfCode_isSome_of_lt code hcode)
  simp [tickCommand, hloaded, hfault, hrc]

/-- A TICK on a stuck TCE takes its command off the list and empties the output; every other field stands (R264). -/
theorem step_of_stuck {s : State} {code : RcPort} {rest : List Command} (hloaded : s.loaded = true)
    (hfault : s.fault = true) (hcode : code.toNat < 3) (hcmds : s.cmds = .tick code :: rest) :
    step s = .next { s with cmds := rest, out := [] } := by
  calc step s
      = tickCommand code { s with cmds := rest } := by simp only [step, runCommand, hcmds]
    _ = .next { s with cmds := rest, out := [] } := tickCommand_of_stuck hloaded hfault hcode

/-- The whole state after a list of TICKs on a stuck TCE: a stuck state answers a stuck state, so the rule of one TICK
applies to each. -/
theorem run_of_stuck (codes : List RcPort) {s : State} {rest : List Command} (hloaded : s.loaded = true)
    (hfault : s.fault = true) (hcodes : ∀ c ∈ codes, c.toNat < 3) (hcmds : s.cmds = codes.map Command.tick ++ rest) :
    Host.Core.run Sys2Proof.core codes.length s =
      .next { s with cmds := rest, out := if codes = [] then s.out else [] } := by
  induction codes generalizing s with
  | nil => subst hcmds; rfl
  | cons code codes ih =>
    obtain ⟨hcode, hcodes⟩ := List.forall_mem_cons.mp hcodes
    have hstep := step_of_stuck (rest := codes.map Command.tick ++ rest) hloaded hfault hcode hcmds
    have hrest := ih (s := { s with cmds := codes.map Command.tick ++ rest, out := [] }) hloaded hfault hcodes rfl
    rw [ite_self] at hrest
    exact (run_next codes.length hstep).trans hrest

/-! ## LOAD -/

theorem step_load {s : State} {c : Config} {rest : List Command} (hcmds : s.cmds = .load c :: rest) :
    step s = loadCommand c rest := by
  simp only [step, runCommand, hcmds]

theorem loadCommand_of_legal {c : Config} (h : configLegal c) (rest : List Command) :
    loadCommand c rest = .next (State.afterLoad c rest) := by
  obtain ⟨hstart, hcodes⟩ := h
  simp [loadCommand, hstart, hcodes]

theorem loadCommand_of_not_legal {c : Config} (h : ¬ configLegal c) (rest : List Command) :
    loadCommand c rest = .refused .startOutOfRange ∨ loadCommand c rest = .refused .configOutOfRange := by
  by_cases hstart : startLegal c.start = true
  · have hcodes : codesLegal c = false := Bool.eq_false_iff.mpr fun hcodes => h ⟨hstart, hcodes⟩
    exact .inr (by simp [loadCommand, hstart, hcodes])
  · exact .inl (if_pos (Bool.eq_false_iff.mpr hstart))

end Sys2Proof.Machine
end

section
/-! PROOFS. The statements of 60_exceptions.md on the stuck TCE and on LOAD. -/

namespace Sys2Proof.Proofs

open Sys2Proof.Machine Sys2Proof.Spec

/-- Settles O45, by induction on the TICKs issued: the state they end in is the first one but for the commands taken and
the emptied output. -/
theorem stuckWhileFaultIsSet : Obligations.StuckWhileFaultIsSet := by
  rintro _ s rest codes hloaded hfault rfl hcodes hcmds
  refine ⟨_, run_of_stuck codes hloaded hfault hcodes hcmds, ?registers, ?output⟩
  case registers => exact ⟨rfl, rfl, rfl, rfl, rfl, rfl, rfl, rfl, rfl, rfl⟩
  case output => exact fun hpos => if_neg (List.ne_nil_of_length_pos hpos)

/-- Settles O47: LOAD answers `State.afterLoad` or refuses, and looks at no register of the state it is issued in. -/
theorem loadGivesTheResetValues : Obligations.LoadGivesTheResetValues := by
  intro s c rest hcmds
  rw [step_load hcmds]
  refine ⟨fun hillegal => loadCommand_of_not_legal hillegal rest, fun hlegal => ?_⟩
  refine ⟨State.afterLoad c rest, loadCommand_of_legal hlegal rest, ?_⟩
  simp [lastIndex]

end Sys2Proof.Proofs
end

section
/-! SUPPORT and proofs: the configurations LOAD accepts (70_reset_and_hazards.md R300, R301). First the rules, one for
each check: the year length, the start value, the DST request and the codes. Then the statement. -/

namespace Sys2Proof.Machine

/-! ## The start value (R300) -/

/-- The year register's two low bits are the year modulo 4 (40_civil_time.md R113). -/
theorem yearLength_eq_mod_four (y : YearReg) : yearLength y = if y.toNat % 4 = 0 then 366 else 365 := by
  have hlow : (y &&& 3).toNat = y.toNat % 4 := by
    rw [BitVec.toNat_and]
    exact Nat.and_two_pow_sub_one_eq_mod y.toNat 2
  have hzero : y &&& 3 = 0 ↔ y.toNat % 4 = 0 := by
    rw [← hlow]
    exact BitVec.toNat_inj.symm
  simp only [yearLength, hzero]

theorem startLegal_iff (t : CivilTime) : startLegal t = true ↔
    t.year.toNat ≤ 99 ∧ 1 ≤ t.day.toNat ∧ t.day.toNat ≤ yearLength t.year ∧ t.hour.toNat ≤ 23 ∧
      t.minute.toNat ≤ 59 ∧ t.second.toNat ≤ 59 := by
  simp only [startLegal, Bool.and_eq_true, decide_eq_true_eq, and_assoc]

/-! ## The requirements on flags and codes (R301) -/

theorem dstRequestBorrows_iff (d : DstInputs) : dstRequestBorrows d = true ↔
    d.req = true ∧ d.active0 = true ∧ d.target.hour = 0 ∧ d.target.minute ≠ 0 := by
  simp only [dstRequestBorrows, Bool.and_eq_true, beq_iff_eq, bne_iff_ne, and_assoc]

theorem codesLegal_iff (c : Config) : codesLegal c = true ↔
    c.fSync ≠ 0 ∧ c.fHour ≠ 0 ∧ (c.irigRcBit = 42 ∨ c.irigRcBit = 43) ∧ ¬ dstRequestBorrows c.dst = true := by
  simp only [codesLegal, Bool.and_eq_true, Bool.or_eq_true, Bool.not_eq_true', Bool.not_eq_true, bne_iff_ne, beq_iff_eq,
    and_assoc]

/-- R301 asks a 4-bit code to be at most 15, which its width gives. -/
theorem toNat_le_fifteen (code : BitVec 4) : code.toNat ≤ 15 := Nat.le_of_lt_succ code.isLt

/-- The range R301 gives a frequency is the width of its register but for 0. -/
theorem hertz_ne_zero_iff (f : Hertz) : f ≠ 0 ↔ 1 ≤ f.toNat ∧ f.toNat ≤ 2047 := by
  have hwidth : f.toNat ≤ 2047 := Nat.le_of_lt_succ f.isLt
  have hzero : f = 0 ↔ f.toNat = 0 := BitVec.toNat_inj.symm
  rw [ne_eq, hzero]
  omega

end Sys2Proof.Machine
end

section
/-! PROOFS. The statement of 70_reset_and_hazards.md on the configurations LOAD accepts. -/

namespace Sys2Proof.Proofs

open Sys2Proof.Machine Sys2Proof.Spec

/-- Settles O46, one half for each check of LOAD. Of the codes of R301 the 4-bit ones meet their bound by their width, and so
do the frequencies their upper bound. -/
theorem legalConfigurationRanges : Obligations.LegalConfigurationRanges := by
  intro c
  refine and_congr ?start ?codes
  case start => rw [startLegal_iff, yearLength_eq_mod_four]
  case codes =>
    rw [codesLegal_iff, dstRequestBorrows_iff, hertz_ne_zero_iff, hertz_ne_zero_iff]
    simp only [toNat_le_fifteen, true_and, and_assoc]

end Sys2Proof.Proofs
end

section
/-! SUPPORT and proofs: decoding against encoding, the tables' entries and the register codes (30_encoding.md R80 to
R91, 20_memory.md R60 to R64). First the rules: the fields of an entry, the addresses of the tables. Then the statements. -/

namespace Sys2Proof.Machine

/-! ## The fields of an entry -/

theorem decodeFields_opcode_argument (i : Instr) : decodeFields (opcode i) (argument i) = .ok i := by
  cases i <;> rfl

theorem opField_encode (i : Instr) : opField (encode i) = opcode i := (Laws.fields_of_append _ _).1

theorem argField_encode (i : Instr) : argField (encode i) = argument i := (Laws.fields_of_append _ _).2

theorem argument_of_argIgnored {i : Instr} (h : argIgnored i = true) : argument i = 0 := by
  cases i <;> simp [argIgnored] at h <;> rfl

/-- The operation number is the byte divided by 16 (30_encoding.md R80). -/
theorem opField_toNat (b : Byte) : (opField b).toNat = b.toNat / 16 := by
  have := b.isLt
  rw [opField, BitVec.extractLsb'_toNat, Nat.shiftRight_eq_div_pow]
  omega

/-! ## The addresses of the tables -/

theorem tableSpace_size_eq (tb : TableSpace) : tb.size = if tb = .wwv then 61 else 10 := by
  cases tb <;> rfl

theorem tableAddr_eq_some_iff {tb : TableSpace} {n a : Nat} :
    tableAddr tb n = some a ↔ n < tb.size ∧ tb.base + n = a := by
  unfold tableAddr
  split <;> simp [*]

/-- The table whose entries stand around an address of the flat numbering (log 7). -/
def spaceAt (a : Nat) : TableSpace :=
  if a < 61 then .wwv
  else if a < 71 then .irigT1
  else if a < 81 then .irigT2
  else if a < 91 then .irigT3
  else if a < 101 then .irigT4
  else .irigT5

theorem spaceAt_base_add {tb : TableSpace} {n : Nat} (h : n < tb.size) : spaceAt (tb.base + n) = tb := by
  cases tb <;> grind [spaceAt, TableSpace.base, TableSpace.size]

/-- The index ranges of the six tables do not overlap in the flat numbering (log 7). -/
theorem tableAddr_injective {tb tb' : TableSpace} {n n' : Nat} (h : n < tb.size) (h' : n' < tb'.size)
    (heq : tb.base + n = tb'.base + n') : tb = tb' ∧ n = n' := by
  have hspace : tb = tb' := by rw [← spaceAt_base_add h, heq, spaceAt_base_add h']
  subst hspace
  exact ⟨rfl, by omega⟩

/-- Setting one entry leaves every other entry of every table (20_memory.md R60). -/
theorem tblRead_tblWrite_other {m : Memory} (hwf : Memory.wf m = true) {tb tb' : TableSpace} {n n' : Nat} (e : Byte)
    (hne : tb' ≠ tb ∨ n' ≠ n) : tblRead (tblWrite m tb n e) tb' n' = tblRead m tb' n' := by
  unfold tblRead tblWrite
  cases haddr : tableAddr tb n with
  | none => rfl
  | some a =>
    cases haddr' : tableAddr tb' n' with
    | none => rfl
    | some a' =>
      obtain ⟨hn, rfl⟩ := tableAddr_eq_some_iff.1 haddr
      obtain ⟨hn', rfl⟩ := tableAddr_eq_some_iff.1 haddr'
      have hapart : tb'.base + n' ≠ tb.base + n := fun heq =>
        have ⟨hspace, hindex⟩ := tableAddr_injective hn' hn heq
        hne.elim (· hspace) (· hindex)
      simp only [Option.bind_some, memory_read_write hwf, if_neg hapart]

end Sys2Proof.Machine
end

section
/-! PROOFS. The statements of 30_encoding.md on decoding, of 20_memory.md on the tables, and of 10_state.md on the
codes. -/

namespace Sys2Proof.Proofs

open Sys2Proof.Machine Sys2Proof.Spec

/-- Settles O1: the two fields determine the entry, and a decoded entry has the fields of its byte but for an argument
its operation ignores. -/
theorem decodeEncodeAgree : Obligations.DecodeEncodeAgree := by
  refine ⟨fun i => ?_, fun b i hdecode => ?_⟩
  · rw [encode, decode_append, decodeFields_opcode_argument]
  · obtain ⟨hop, harg⟩ := decodeFields_ok hdecode
    refine ⟨(opField_encode i).trans hop, (argField_encode i).trans ?_⟩
    cases hign : argIgnored i with
    | true => simpa using argument_of_argIgnored hign
    | false => simpa using harg hign

/-- Settles O2: the decoder splits on the operation number alone. -/
theorem reservedOperationsRejected : Obligations.ReservedOperationsRejected := by
  intro b
  rw [← opField_toNat]
  refine ⟨fun hge => decodeFields_of_ge hge _, fun hlt => ?_⟩
  obtain ⟨i, hdecode⟩ := decodeFields_of_lt hlt (argField b)
  exact ⟨i, hdecode, congrArg BitVec.toNat (decodeFields_ok hdecode).1⟩

/-- Settles O7, from the range in which `TblRead` answers. -/
theorem tablesReadInsideTheirRange : Obligations.TablesReadInsideTheirRange := by
  intro m tb n
  rw [← Option.isSome_iff_exists, tblRead_isSome, decide_eq_true_eq, tableSpace_size_eq]

/-- Settles O8: the write reaches one address, and two entries never share one. -/
theorem tableEntrySetReadsBack : Obligations.TableEntrySetReadsBack := by
  intro m tb n e hwf hn
  rw [← tableSpace_size_eq] at hn
  exact ⟨tblRead_tblWrite_same hwf hn e, memory_wf_tblWrite hwf tb n e, fun _ _ hne => tblRead_tblWrite_other hwf e hne⟩

/-- Settles O9: the frame number selects the field of the map, for each of the twelve numbers. -/
theorem frameNumbersReadTheFrameMap : Obligations.FrameNumbersReadTheFrameMap := ⟨fun _ => rfl, rfl⟩

/-- Settles O10: the four codes, evaluated. -/
theorem rateCorrectionPortCodes : Obligations.RateCorrectionPortCodes := ⟨rfl, rfl, rfl, rfl⟩

/-- Settles O11: each code, evaluated. -/
theorem statusAndOutputCodes : Obligations.StatusAndOutputCodes :=
  ⟨⟨rfl, rfl, rfl, rfl⟩, ⟨rfl, rfl, rfl, rfl, rfl⟩, rfl, rfl, rfl⟩

end Sys2Proof.Proofs
end

section
/-! SUPPORT and proofs: one AdvanceSecond from the ranges (40_civil_time.md R102 to R114) and the minute before a target
(R121). First the rules: the three ways a second can pass and what each leaves, PrevMinute by its four cases. Then the
statements. -/

namespace Sys2Proof.Machine

open Sys2Proof.Spec

/-! ## A second inside the minute, and the inserted second -/

/-- This tick adds one second to the minute (R103). -/
def passesNow (s : State) : Prop :=
  s.leapState = .normal ∧ s.ct.second.toNat < 59 ∧ ¬ deletesNow s

/-- From the ranges each tick passes a second, inserts one, or ends the minute. -/
theorem passes_or_inserts_or_wraps {s : State} (hleap : leapConsistent s) :
    passesNow s ∨ insertsNow s ∨ wrapsNow s := by
  obtain ⟨hnormal, hsecond⟩ | ⟨hafter, -⟩ := hleap
  · by_cases hdel : deletesNow s
    · exact .inr (.inr (.inl hdel))
    by_cases hlt : s.ct.second.toNat < 59
    · exact .inl ⟨hnormal, hlt, hdel⟩
    by_cases hins : insertsNow s
    · exact .inr (.inl hins)
    · have h59 : s.ct.second = 59 := by bv_omega
      exact .inr (.inr (.inr (.inr ⟨hnormal, h59, hins⟩)))
  · exact .inr (.inr (.inr (.inl hafter)))

theorem civilInRange_of_second {t : CivilTime} (h : civilInRange t) {n : SecondReg} (hn : n.toNat ≤ 60) :
    civilInRange { t with second := n } := by
  obtain ⟨hyear, hday, hdays, hhour, hminute, -⟩ := h
  exact ⟨hyear, hday, hdays, hhour, hminute, hn⟩

/-- Away from second 0 step 3 does not run, and steps 4 and 5 find an hour and a day in their ranges. -/
theorem advanceSecond_of_second_ne_zero {s t : State} (hstep : advanceSecondField (armLeap s) = t)
    (hrange : civilInRange t.ct) (hsecond : t.ct.second ≠ 0) : advanceSecond s = .ok (t, false) := by
  obtain ⟨-, -, hday, hhour, -, -⟩ := hrange
  have hminute : advanceMinute t = .ok t := if_neg hsecond
  simp only [advanceSecond, hstep, hminute, normalizeHour_of_lt (show t.ct.hour.toNat < 24 by omega),
    rollYear_of_le hday]

theorem armLeap_of_insertsNow {s : State} (h : insertsNow s) : armLeap s = { s with leapState := .inserting } := by
  obtain ⟨hnormal, hsecond, hins, htarget⟩ := h
  simp [armLeap, hnormal, hsecond, hins, leapMatch_iff, htarget]

theorem advanceSecond_of_passesNow {s : State} (hrange : civilInRange s.ct) (h : passesNow s) :
    advanceSecond s = .ok ({ s with ct := { s.ct with second := s.ct.second + 1 } }, false) := by
  obtain ⟨hnormal, hlt, hdel⟩ := h
  have hins : ¬ insertsNow s := fun ⟨_, h59, _⟩ => by simp [h59] at hlt
  have hnext : BitVec.ofNat 6 ((s.ct.second.toNat + 1) % 60) = s.ct.second + 1 := by
    rw [Nat.mod_eq_of_lt (by omega)]
    simp [BitVec.ofNat_add]
  refine advanceSecond_of_second_ne_zero ?_ (civilInRange_of_second hrange ?_) ?_
  · rw [armLeap_of_unarmed hdel hins]
    simp [advanceSecondField, hnormal, hnext]
  · bv_omega
  · change s.ct.second + 1 ≠ 0
    bv_omega

theorem advanceSecond_of_insertsNow {s : State} (hrange : civilInRange s.ct) (h : insertsNow s) :
    advanceSecond s = .ok ({ s with ct := { s.ct with second := 60 }, leapState := .zeroAfterInsert }, false) := by
  have hsixty : (60 : SecondReg) ≠ 0 := by decide
  refine advanceSecond_of_second_ne_zero ?_ (civilInRange_of_second hrange (n := 60) (by decide)) hsixty
  rw [armLeap_of_insertsNow h]
  rfl

/-! ## The end of a minute -/

theorem advanceSecond_of_not_dstDue {s : State} (hrange : civilInRange s.ct) (hwraps : wrapsNow s)
    (hdue : ¬ dstDue s) : advanceSecond s =
      .ok (atNewMinute s (rippledHour s.ct) s.dst s.off, yearRolls s.ct (rippledHour s.ct) && s.cfg.leapWarn) := by
  have hhour := rippledHour_le hrange
  have hfire : ¬ dstFire (unreduced s (rippledHour s.ct) s.dst s.off) = true := mt (dstFire_unreduced hrange).1 hdue
  exact advanceSecond_of_dstSwitch hrange hwraps (by omega) (if_neg hfire)

/-- What the end of a minute can do to the DST registers: nothing, or a switch that ends the pending one (R111). -/
def dstKept (s : State) (dst : DstState) : Prop :=
  dst = s.dst ∨ dst.pend = false ∧ dst.target = s.dst.target

/-- A tick that ends the minute and is not refused stands at second 0 of the next minute, one of the three hours the DST
test can give it. -/
theorem advanceSecond_ok_of_wrapsNow {s t : State} {extra : Bool} (hrange : civilInRange s.ct) (hwraps : wrapsNow s)
    (h : advanceSecond s = .ok (t, extra)) :
    ∃ hour dst off, hour ≤ 25 ∧ dstKept s dst ∧ t = atNewMinute s hour dst off := by
  have hhour := rippledHour_le hrange
  by_cases hdue : dstDue s
  · cases hactive : s.dst.active with
    | false =>
      rw [Proofs.dstActivationSkipsAnHour s hrange hwraps hdue hactive, Except.ok.injEq, Prod.mk.injEq] at h
      exact ⟨rippledHour s.ct + 1, ⟨true, false, s.dst.target⟩, _, by omega, .inr ⟨rfl, rfl⟩, h.1.symm⟩
    | true =>
      obtain ⟨hback, hborrow⟩ := Proofs.dstDeactivationRepeatsAnHour s hrange hwraps hdue hactive
      by_cases hzero : rippledHour s.ct = 0
      · rw [hborrow hzero] at h
        cases h
      · rw [hback (by omega), Except.ok.injEq, Prod.mk.injEq] at h
        exact ⟨rippledHour s.ct - 1, ⟨false, false, s.dst.target⟩, _, by omega, .inr ⟨rfl, rfl⟩, h.1.symm⟩
  · rw [advanceSecond_of_not_dstDue hrange hwraps hdue, Except.ok.injEq, Prod.mk.injEq] at h
    exact ⟨rippledHour s.ct, _, _, by omega, .inl rfl, h.1.symm⟩

theorem settled_second (t : CivilTime) (hour minute : Nat) : (settled t hour minute).second = 0 := by
  unfold settled
  split
  · rfl
  · split <;> rfl

theorem settled_minute (t : CivilTime) (hour minute : Nat) :
    (settled t hour minute).minute = BitVec.ofNat 6 minute := by
  unfold settled
  split
  · rfl
  · split <;> rfl

theorem settled_rippledMinute_toNat {t : CivilTime} (h : civilInRange t) (hour : Nat) :
    (settled t hour (rippledMinute t)).minute.toNat = rippledMinute t := by
  have hminute := rippledMinute_le h
  rw [settled_minute]
  exact Nat.mod_eq_of_lt (by omega)

/-- The insertion leaves a state whose next tick ends the minute. -/
theorem wrapsNow_of_zeroAfterInsert {s : State} (h : s.leapState = .zeroAfterInsert) : wrapsNow s := .inr (.inl h)

/-! ## PrevMinute by its cases (R121) -/

theorem prevMinute_of_minute_pos {t : Target} (h : 0 < t.minute.toNat) :
    prevMinute t = { t with minute := t.minute - 1 } := if_pos h

theorem prevMinute_of_hour_pos {t : Target} (hminute : t.minute = 0) (h : 0 < t.hour.toNat) :
    prevMinute t = { t with hour := t.hour - 1, minute := 59 } := by
  simp [prevMinute, hminute, h]

theorem prevMinute_of_day_gt {t : Target} (hminute : t.minute = 0) (hhour : t.hour = 0) (h : 1 < t.day.toNat) :
    prevMinute t = { t with day := t.day - 1, hour := 23, minute := 59 } := by
  simp [prevMinute, hminute, hhour, h]

/-- The year before `y` within 0 to 99, which wraps from 0 to 99. -/
def prevYear (y : YearReg) : YearReg := BitVec.ofNat 7 ((y.toNat + 99) % 100)

theorem prevMinute_of_first_day {t : Target} (hminute : t.minute = 0) (hhour : t.hour = 0) (h : t.day = 1) :
    prevMinute t =
      { year := prevYear t.year, day := BitVec.ofNat 9 (yearLength (prevYear t.year)), hour := 23, minute := 59 } := by
  simp [prevMinute, hminute, hhour, h, prevYear]

theorem prevYear_le (y : YearReg) : (prevYear y).toNat ≤ 99 := by
  rw [prevYear, BitVec.toNat_ofNat]
  omega

/-- Stepping the year back and on again is the identity on 0 to 99. -/
theorem nextYear_prevYear {y : YearReg} (h : y.toNat ≤ 99) : nextYear (prevYear y) = y := by
  apply BitVec.eq_of_toNat_eq
  simp only [nextYear, prevYear, BitVec.toNat_ofNat]
  omega

theorem yearLength_toNat (y : YearReg) : (BitVec.ofNat 9 (yearLength y)).toNat = yearLength y := by
  have := yearLength_le y
  exact Nat.mod_eq_of_lt (by omega)

theorem one_le_yearLength (y : YearReg) : 1 ≤ yearLength y := by
  unfold yearLength
  split <;> omega

/-- Second 59 of a minute, from which the next minute is looked for. -/
def lastSecond (p : Target) : CivilTime := ⟨p.year, p.day, p.hour, p.minute, 59⟩

/-- The ripple of the minute's last second makes the tuple of the target, before the hour is reduced. -/
def ripplesTo (p t : Target) : Prop :=
  p.year = t.year ∧ p.day = t.day ∧ rippledHour (lastSecond p) = t.hour.toNat ∧
  rippledMinute (lastSecond p) = t.minute.toNat

/-- The minute of the calendar that follows a minute. -/
def followingMinute (p : Target) : Target :=
  minuteOf (settled (lastSecond p) (rippledHour (lastSecond p)) (rippledMinute (lastSecond p)))

/-- An hour below 24 needs no reduction. -/
theorem followingMinute_of_ripplesTo {p t : Target} (h : ripplesTo p t) (hhour : t.hour.toNat ≤ 23) :
    followingMinute p = t := by
  obtain ⟨hyear, hday, hh, hm⟩ := h
  rw [followingMinute, hh, hm, settled, if_pos (by omega)]
  simp [minuteOf, lastSecond, hyear, hday]

/-- The last minute of a day is followed by the first of the next, in the same year. -/
theorem followingMinute_of_day_end {p : Target} (hhour : p.hour = 23) (hminute : p.minute = 59)
    (hday : p.day.toNat < yearLength p.year) :
    followingMinute p = { p with day := p.day + 1, hour := 0, minute := 0 } := by
  simp [followingMinute, lastSecond, rippledHour, rippledMinute, settled, minuteOf, hhour, hminute, hday]

/-- The last minute of a year is followed by the first of the next. -/
theorem followingMinute_of_year_end {p : Target} (hhour : p.hour = 23) (hminute : p.minute = 59)
    (hday : p.day.toNat = yearLength p.year) (hyear : p.year.toNat ≤ 99) :
    followingMinute p = { year := nextYear p.year, day := 1, hour := 0, minute := 0 } := by
  rw [nextYear_eq hyear]
  simp [followingMinute, lastSecond, rippledHour, rippledMinute, settled, minuteOf, hhour, hminute, hday]

theorem ripplesTo_of_minute_pos {t : Target} (h : 0 < t.minute.toNat) (hle : t.minute.toNat ≤ 59) :
    ripplesTo { t with minute := t.minute - 1 } t := by
  have hsub : (t.minute - 1).toNat = t.minute.toNat - 1 := by bv_omega
  refine ⟨rfl, rfl, ?_, ?_⟩ <;> simp only [rippledHour, rippledMinute, lastSecond, hsub] <;> split <;> omega

theorem ripplesTo_of_hour_pos {t : Target} (hminute : t.minute = 0) (h : 0 < t.hour.toNat) :
    ripplesTo { t with hour := t.hour - 1, minute := 59 } t := by
  have hsub : (t.hour - 1).toNat = t.hour.toNat - 1 := by bv_omega
  refine ⟨rfl, rfl, ?_, ?_⟩
  · simp only [rippledHour, lastSecond, hsub, show (59 : MinuteReg).toNat = 59 from rfl, if_true]
    omega
  · simp [rippledMinute, lastSecond, hminute]

/-- Before an hour 0 minute 0 the minute is the last of the day before. -/
theorem followingMinute_prevMinute_midnight {t : Target} (hyear : t.year.toNat ≤ 99) (hday : 1 ≤ t.day.toNat)
    (hdays : t.day.toNat ≤ yearLength t.year) (hhour : t.hour = 0) (hminute : t.minute = 0) :
    civilInRange (lastSecond (prevMinute t)) ∧ followingMinute (prevMinute t) = t := by
  obtain ⟨y, d, hr, m⟩ := t
  subst hhour hminute
  by_cases hfirst : 1 < d.toNat
  · have hback : (d - 1).toNat = d.toNat - 1 := by bv_omega
    rw [prevMinute_of_day_gt rfl rfl hfirst]
    refine ⟨⟨hyear, ?_, ?_, by simp [lastSecond], by simp [lastSecond], by simp [lastSecond]⟩, ?_⟩
    · simp only [lastSecond, hback]
      omega
    · simp only [lastSecond, hback] at *
      omega
    · rw [followingMinute_of_day_end rfl rfl (by simp only [hback] at *; omega), BitVec.sub_add_cancel]
  · obtain rfl : d = 1 := BitVec.eq_of_toNat_eq (by simp at *; omega)
    have hlast := yearLength_toNat (prevYear y)
    rw [prevMinute_of_first_day rfl rfl rfl]
    refine ⟨⟨prevYear_le y, ?_, ?_, by simp [lastSecond], by simp [lastSecond], by simp [lastSecond]⟩, ?_⟩
    · simpa only [lastSecond, hlast] using one_le_yearLength (prevYear y)
    · exact hlast.le
    · rw [followingMinute_of_year_end rfl rfl hlast (prevYear_le y)]
      simp only [nextYear_prevYear hyear]

/-- Any other target in the ranges, hour 24 at minute 0 included, is reached by the ripple from a time in the ranges. -/
theorem ripplesTo_prevMinute {t : Target} (hyear : t.year.toNat ≤ 99) (hday : 1 ≤ t.day.toNat)
    (hdays : t.day.toNat ≤ yearLength t.year) (hminute : t.minute.toNat ≤ 59)
    (hhour : t.hour.toNat ≤ 23 ∨ (t.hour = 24 ∧ t.minute = 0)) (hne : ¬(t.hour = 0 ∧ t.minute = 0)) :
    civilInRange (lastSecond (prevMinute t)) ∧ ripplesTo (prevMinute t) t := by
  by_cases hpos : 0 < t.minute.toNat
  · have hle : t.hour.toNat ≤ 23 := hhour.resolve_right fun ⟨_, h0⟩ => by simp [h0] at hpos
    have hback : (t.minute - 1).toNat ≤ 59 := by bv_omega
    rw [prevMinute_of_minute_pos hpos]
    exact ⟨⟨hyear, hday, hdays, hle, hback, by simp [lastSecond]⟩, ripplesTo_of_minute_pos hpos hminute⟩
  · have hzero : t.minute = 0 := by bv_omega
    have hhpos : 0 < t.hour.toNat := by
      have : t.hour ≠ 0 := fun h0 => hne ⟨h0, hzero⟩
      bv_omega
    have hback : (t.hour - 1).toNat ≤ 23 := by
      obtain hle | ⟨h24, -⟩ := hhour
      · bv_omega
      · simp [h24]
    rw [prevMinute_of_hour_pos hzero hhpos]
    exact ⟨⟨hyear, hday, hdays, hback, by simp [lastSecond], by simp [lastSecond]⟩, ripplesTo_of_hour_pos hzero hhpos⟩

end Sys2Proof.Machine
end

section
/-! PROOFS. The statements of 40_civil_time.md on a second, the minute's end, the inserted second and PrevMinute. -/

namespace Sys2Proof.Proofs

open Sys2Proof.Machine Sys2Proof.Spec

/-- Settles O26: no leap event arms, and the second stays above 0. -/
theorem ordinaryTickAddsOneSecond : Obligations.OrdinaryTickAddsOneSecond :=
  fun _ hrange hnormal hlt hdel => advanceSecond_of_passesNow hrange ⟨hnormal, hlt, hdel⟩

/-- Settles O28: the DST test of the minute's end finds nothing to fire. -/
theorem minuteEndAdvancesTheCalendar : Obligations.MinuteEndAdvancesTheCalendar :=
  fun _ => advanceSecond_of_not_dstDue

/-- Settles O27: the inserted second stands with ZeroAfterInsert, in the same minute, and the next tick ends it. -/
theorem leapInsertionMakesSecondSixty : Obligations.LeapInsertionMakesSecondSixty := by
  intro s hrange hins
  have hrange' := civilInRange_of_second hrange (n := 60) (by decide)
  refine ⟨_, advanceSecond_of_insertsNow hrange hins, rfl, ?next, ?answer⟩
  case next => exact advanceSecond_of_not_dstDue hrange' (wrapsNow_of_zeroAfterInsert rfl)
  case answer =>
    intro v extra hadv
    obtain ⟨hour, dst, off, -, -, rfl⟩ := advanceSecond_ok_of_wrapsNow hrange' (wrapsNow_of_zeroAfterInsert rfl) hadv
    exact ⟨settled_second _ _ _, settled_rippledMinute_toNat hrange' hour, rfl⟩

/-- Settles O32: by the minute and hour of the target, PrevMinute borrows once, twice, or through the day and year. -/
theorem prevMinutePrecedesTheTarget : Obligations.PrevMinutePrecedesTheTarget := by
  intro t
  refine ⟨prevMinute_of_minute_pos, prevMinute_of_hour_pos, fun hyear hday hdays hminute hhour => ?_⟩
  by_cases hmid : t.hour = 0 ∧ t.minute = 0
  · obtain ⟨hrange, hnext⟩ := followingMinute_prevMinute_midnight hyear hday hdays hmid.1 hmid.2
    exact ⟨hrange, by rw [if_pos hmid]; exact hnext, fun _ => hnext⟩
  · obtain ⟨hrange, hripple⟩ := ripplesTo_prevMinute hyear hday hdays hminute hhour hmid
    exact ⟨hrange, by rw [if_neg hmid]; exact hripple, followingMinute_of_ripplesTo hripple⟩

end Sys2Proof.Proofs
end

section
/-! SUPPORT and proofs: what an operation changes and leaves, how many descriptors it emits and what they sum to
(42_pulse_ops.md R194 to R199). First the rules: an operation that answers raises a named fault, or sends one pulse
group from its sending state; the length and the sum of a group. Then the statements. -/

namespace Sys2Proof.Machine

open Sys2Proof.Spec

/-! ## What an operation that answers has done -/

/-- The one group an operation sends: a pulse with the tick of its number, or for operation 8 the minute marker. -/
def groupOf (i : Instr) (s : State) (ps : List PulseSpec) : Prop :=
  (i ≠ .minuteMarker ∧ ∃ kind, ps = sendGroup s kind (sendsTick i)) ∨ (i = .minuteMarker ∧ ps = wwvMarker s)

/-- An operation that passes the checks and sends: its group is appended to the state it sends from. -/
structure Sends (i : Instr) (s : State) (ps : List PulseSpec) : Prop where
  admitted : admitted s.cfg.fmt i = true
  group : groupOf i s ps
  room : decrements (opcode i) → s.cur ≠ 0

/-- What is left of an operation once it sends. -/
theorem sends_of_send {i : Instr} {s t : State} {kind : PulseKind} (hadm : admitted s.cfg.fmt i = true)
    (hmarker : i ≠ .minuteMarker) (hroom : decrements (opcode i) → s.cur ≠ 0)
    (h : send kind (sendsTick i) (sendingState i s) = .next t) :
    ∃ ps, Sends i s ps ∧ t = (sendingState i s).emitAll ps := by
  have hgroup : sendGroup (sendingState i s) kind (sendsTick i) = sendGroup s kind (sendsTick i) := by
    unfold sendingState
    split <;> rfl
  rw [send_eq, hgroup, Host.Outcome.next.injEq] at h
  exact ⟨_, ⟨hadm, .inl ⟨hmarker, kind, rfl⟩, hroom⟩, h.symm⟩

/-- An operation that answers a next state raises a fault by its name, or sends. Unlike `exec_next_cases` this says
which operations move the cursor and which send with a tick. -/
theorem exec_next_sends {i : Instr} {s t : State} (h : exec i s = .next t) :
    (∃ c, c ≠ .none ∧ t = s.raised c) ∨ ∃ ps, Sends i s ps ∧ t = (sendingState i s).emitAll ps := by
  have stays : ∀ {i : Instr}, ¬ decrements (opcode i) → decrements (opcode i) → s.cur ≠ 0 :=
    fun hstays hmoves => absurd hmoves hstays
  cases i <;> (obtain ⟨hadm, h⟩ | ⟨-, rfl⟩ := ifAdmitted_next h) <;> try exact .inl ⟨_, by simp, rfl⟩
  case sendData | sendDataNoTick =>
    obtain ⟨kind, -, h⟩ | ⟨-, rfl⟩ := withKind_next h
    · exact .inr (sends_of_send hadm (by simp) (stays (by simp [opcode])) h)
    · exact .inl ⟨_, by simp, rfl⟩
  case sendCoefficientBit =>
    obtain ⟨d, -, h⟩ := withDigit_next h
    exact .inr (sends_of_send hadm (by simp) (stays (by simp [opcode])) h)
  case decrementSendBit =>
    obtain ⟨hcur, h⟩ | ⟨-, rfl⟩ := withDecrement_next h
    · obtain ⟨d, -, h⟩ := withDigit_next h
      exact .inr (sends_of_send hadm (by simp) (fun _ => hcur) h)
    · exact .inl ⟨_, by simp, rfl⟩
  case decrementSendPI | decrementSendZero | decrementNoTickPI =>
    obtain ⟨hcur, h⟩ | ⟨-, rfl⟩ := withDecrement_next h
    · exact .inr (sends_of_send hadm (by simp) (fun _ => hcur) h)
    · exact .inl ⟨_, by simp, rfl⟩
  case minuteMarker =>
    exact .inr ⟨_, ⟨hadm, .inr ⟨rfl, rfl⟩, stays (by simp [opcode])⟩, (Host.Outcome.next.inj h).symm⟩
  case noDecrementPI | leapWarningBit | dut1Bit | dst1Bit | dst2Bit =>
    exact .inr (sends_of_send hadm (by simp) (stays (by simp [opcode])) h)

/-- The same for an operation that left the fault flag clear: it has sent. -/
theorem exec_next_sends_of_clear {i : Instr} {s t : State} (h : exec i s = .next t) (hclear : t.fault = false) :
    ∃ ps, Sends i s ps ∧ t.out = s.out ++ ps := by
  obtain ⟨c, -, rfl⟩ | ⟨ps, hsends, rfl⟩ := exec_next_sends h
  · cases hclear
  · refine ⟨ps, hsends, ?_⟩
    unfold sendingState
    split <;> rfl

/-- In IRIG-B format the marker is not admitted, so every group is one bit. -/
theorem groupOf_irig {i : Instr} {s : State} {ps : List PulseSpec} (h : Sends i s ps) (hirig : s.cfg.fmt.irig = true) :
    ∃ kind, ps = irigBit s.cfg kind s.bitIndex s.rc := by
  obtain ⟨-, kind, rfl⟩ | ⟨rfl, -⟩ := h.group
  · exact ⟨kind, if_pos hirig⟩
  · have hadm := h.admitted
    simp [admitted, admittedInIrig, hirig] at hadm

/-- In WWV format the group is a data second or the marker. -/
theorem groupOf_wwv {i : Instr} {s : State} {ps : List PulseSpec} (h : Sends i s ps) (hwwv : s.cfg.fmt.irig = false) :
    (i ≠ .minuteMarker ∧ ∃ kind, ps = wwvData s.cfg kind (sendsTick i) s.rc) ∨
    (i = .minuteMarker ∧ ps = wwvMarker s) :=
  h.group.imp_left fun ⟨hmarker, kind, hps⟩ => ⟨hmarker, kind, hps.trans (by simp [sendGroup, hwwv])⟩

/-! ## The length and the sum of a WWV group (R195, R198) -/

theorem wwvData_length (c : Config) (kind : PulseKind) (tick : Bool) (rc : RcMode) :
    (wwvData c kind tick rc).length = if tick then 4 else 3 := by
  cases tick <;> rfl

/-- Operations 1 and 7 send without a tick, one descriptor fewer. -/
theorem wwvData_sendsTick_length (c : Config) (kind : PulseKind) (i : Instr) (rc : RcMode) :
    (wwvData c kind (sendsTick i) rc).length = if opcode i = 1 ∨ opcode i = 7 then 3 else 4 := by
  rw [wwvData_length]
  by_cases hquiet : opcode i = 1 ∨ opcode i = 7
  · rw [if_pos hquiet, if_neg (by simpa [sendsTick] using fun h => hquiet.resolve_left h)]
  · rw [if_neg hquiet, if_pos (by simpa [sendsTick] using hquiet)]

theorem totalMs_wwvData {c : Config} {kind : PulseKind} (hwidth : (wwvWidth c kind).toNat ≤ 960) (tick : Bool)
    (rc : RcMode) : (totalMs (wwvData c kind tick rc) : Int) = 1000 + wwvMs rc := by
  have hadj := wwvMs_bounds rc
  have hquiet := intervalMs_toNat (v := 970 - (wwvWidth c kind).toNat + wwvMs rc) (by omega) (by omega)
  cases tick <;> simp [totalMs, wwvData, wwvAdj_eq] <;> omega

theorem totalMs_wwvMarker (s : State) : (totalMs (wwvMarker s) : Int) = 1000 + wwvMs s.rc := by
  have hadj := wwvMs_bounds s.rc
  have hquiet := intervalMs_toNat (v := 200 + wwvMs s.rc) (by omega) (by omega)
  simp [totalMs, wwvMarker, wwvAdj_eq]
  omega

end Sys2Proof.Machine
end

section
/-! PROOFS. The statements of 42_pulse_ops.md on the frame, the descriptors and the extra group. -/

namespace Sys2Proof.Proofs

open Sys2Proof.Machine Sys2Proof.Spec

/-- Settles O22: a raise writes the three fault registers; a send appends to the state with the cursor moved or not. -/
theorem operationsWriteOnlyCursorAndFault : Obligations.OperationsWriteOnlyCursorAndFault := by
  intro i s t h
  obtain ⟨c, hc, rfl⟩ | ⟨ps, hsends, rfl⟩ := exec_next_sends h
  · exact ⟨rfl, rfl, rfl, rfl, rfl, rfl, rfl, rfl, rfl, fun _ _ => rfl, .inl rfl, ⟨[], by simp⟩,
      .inr ⟨rfl, hc, rfl, rfl⟩⟩
  by_cases hmoves : decrements (opcode i)
  · rw [sendingState, if_pos hmoves]
    exact ⟨rfl, rfl, rfl, rfl, rfl, rfl, rfl, rfl, rfl, fun _ _ => rfl,
      .inr ⟨hmoves, decrement_toNat (hsends.room hmoves)⟩, ⟨ps, rfl⟩, .inl ⟨rfl, rfl, rfl⟩⟩
  · rw [sendingState, if_neg hmoves]
    exact ⟨rfl, rfl, rfl, rfl, rfl, rfl, rfl, rfl, rfl, fun _ _ => rfl, .inl rfl, ⟨ps, rfl⟩, .inl ⟨rfl, rfl, rfl⟩⟩

/-- Settles O24, by the length of the one group sent. -/
theorem entryDescriptorCount : Obligations.EntryDescriptorCount := by
  intro i s t _ h hclear
  obtain ⟨ps, hsends, hout⟩ := exec_next_sends_of_clear h hclear
  rw [hout, List.length_append]
  congr 1
  cases hfmt : s.cfg.fmt.irig with
  | true =>
    obtain ⟨kind, rfl⟩ := groupOf_irig hsends hfmt
    rfl
  | false =>
    obtain ⟨hmarker, kind, rfl⟩ | ⟨rfl, rfl⟩ := groupOf_wwv hsends hfmt
    · rw [wwvData_sendsTick_length]
      simp [hmarker]
    · rfl

/-- Settles O23, by the sum of the one group sent. -/
theorem wwvEntryDurationSum : Obligations.WwvEntryDurationSum := by
  intro i s t hwwv _ hzero hone hpi h hclear
  obtain ⟨ps, hsends, hout⟩ := exec_next_sends_of_clear h hclear
  have hwidth : ∀ kind, (wwvWidth s.cfg kind).toNat ≤ 960
    | .zero => hzero
    | .one => hone
    | .pi => hpi
  have hsum : (totalMs ps : Int) = 1000 + wwvMs s.rc := by
    obtain ⟨-, kind, rfl⟩ | ⟨-, rfl⟩ := groupOf_wwv hsends hwwv
    · exact totalMs_wwvData (hwidth kind) _ _
    · exact totalMs_wwvMarker s
  rw [hout, totalMs_append, Nat.cast_add, hsum]
  ring

/-- Settles O25: in WWV the group is a data second of the zero width, in IRIG-B the list supplied for the mode. -/
theorem extraGroupOfAYearRollover : Obligations.ExtraGroupOfAYearRollover := by
  intro c rc
  refine ⟨fun hwwv hwidth => ?wwv, fun hirig g hsupplied => ?irig⟩
  case wwv =>
    have hadj := wwvMs_bounds rc
    refine ⟨intervalMs (970 - c.wwvW0.toNat + wwvMs rc), ?_, intervalMs_toNat (by omega) (by omega)⟩
    rw [extraSecond, if_neg (by simp [hwwv]), ← wwvAdj_eq]
    rfl
  case irig =>
    rw [extraSecond, if_pos hirig]
    simp only [extraSecondIrig, hsupplied]
    cases rc <;> rfl

end Sys2Proof.Proofs
end

section
/-! SUPPORT and proofs: the invariant along a step (10_state.md section 2 to 6, 40_civil_time.md R122). First the rules:
what AdvanceSecond keeps of the civil, leap and DST registers and when it answers, what encoding keeps of the cursor and
the fault registers and when it answers, and the two commands. Then the statements. -/

namespace Sys2Proof.Machine

open Sys2Proof.Spec

/-! ## The registers AdvanceSecond works on -/

/-- The part of the invariant that AdvanceSecond reads and writes. -/
structure CivilInv (s : State) : Prop where
  range : civilInRange s.ct
  leap : leapConsistent s
  dst : dstConsistent s

theorem civilInv_of_inv {s : State} (h : Inv s) : CivilInv s := ⟨h.civil, h.leap, h.dst⟩

/-- Everything one AdvanceSecond can answer from the ranges: a second passed, a second inserted, or a minute ended. -/
theorem advanceSecond_outcomes {s t : State} {extra : Bool} (hrange : civilInRange s.ct) (hleap : leapConsistent s)
    (h : advanceSecond s = .ok (t, extra)) :
    (passesNow s ∧ t = { s with ct := { s.ct with second := s.ct.second + 1 } }) ∨
    (insertsNow s ∧ t = { s with ct := { s.ct with second := 60 }, leapState := .zeroAfterInsert }) ∨
    (wrapsNow s ∧ ∃ hour dst off, hour ≤ 25 ∧ dstKept s dst ∧ t = atNewMinute s hour dst off) := by
  obtain hpasses | hins | hwraps := passes_or_inserts_or_wraps hleap
  · rw [advanceSecond_of_passesNow hrange hpasses, Except.ok.injEq, Prod.mk.injEq] at h
    exact .inl ⟨hpasses, h.1.symm⟩
  · rw [advanceSecond_of_insertsNow hrange hins, Except.ok.injEq, Prod.mk.injEq] at h
    exact .inr (.inl ⟨hins, h.1.symm⟩)
  · exact .inr (.inr ⟨hwraps, advanceSecond_ok_of_wrapsNow hrange hwraps h⟩)

/-- Below second 58 no leap event can arm (R102). -/
theorem passesNow_of_second_lt {s : State} (hnormal : s.leapState = .normal) (hlt : s.ct.second.toNat < 58) :
    passesNow s := by
  refine ⟨hnormal, by omega, fun ⟨_, h58, _⟩ => ?_⟩
  simp [h58] at hlt

theorem passesNow_second {s : State} (h : passesNow s) : (s.ct.second + 1).toNat = s.ct.second.toNat + 1 := by
  obtain ⟨-, hlt, -⟩ := h
  bv_omega

/-- The calendar stays in its ranges (10_state.md R24): an hour of 24 or 25 is carried to the next day and year. -/
theorem civilInRange_settled {t : CivilTime} (h : civilInRange t) {hour minute : Nat} (hh : hour ≤ 25)
    (hm : minute ≤ 59) : civilInRange (settled t hour minute) := by
  obtain ⟨hyear, hday, hdays, -, -, -⟩ := h
  have hlen := yearLength_le t.year
  have hminute : (BitVec.ofNat 6 minute).toNat ≤ 59 := by bv_omega
  unfold settled
  split
  case isTrue hlt =>
    exact ⟨hyear, hday, hdays, by change (BitVec.ofNat 5 hour).toNat ≤ 23; bv_omega, hminute, Nat.zero_le _⟩
  case isFalse hge =>
    have hhour : (BitVec.ofNat 5 (hour - 24)).toNat ≤ 23 := by bv_omega
    split
    case isTrue hlt =>
      have hnext : (t.day + 1).toNat = t.day.toNat + 1 := by bv_omega
      exact ⟨hyear, by simp only [hnext]; omega, by simp only [hnext]; omega, hhour, hminute, Nat.zero_le _⟩
    case isFalse hlast =>
      refine ⟨?_, le_rfl, one_le_yearLength _, hhour, hminute, Nat.zero_le _⟩
      rw [← nextYear_eq hyear, nextYear, BitVec.toNat_ofNat]
      omega

/-- A pending switch stays as loaded; one that has fired is pending no more, and its target stands (R111). -/
theorem dstConsistent_of_dstKept {s t : State} (h : dstConsistent s) (hdst : dstKept s t.dst) (hcfg : t.cfg = s.cfg) :
    dstConsistent t := by
  obtain ⟨htarget, hpend⟩ := h
  obtain hsame | ⟨hfired, hkept⟩ := hdst
  · exact ⟨by rw [hsame, hcfg, htarget], by rw [hsame, hcfg]; exact hpend⟩
  · exact ⟨by rw [hkept, hcfg, htarget], fun hon => absurd hon (by simp [hfired])⟩

theorem civilInv_advanceSecond {s t : State} {extra : Bool} (hs : CivilInv s)
    (h : advanceSecond s = .ok (t, extra)) : CivilInv t := by
  obtain ⟨hrange, hleap, hdst⟩ := hs
  obtain ⟨hpasses, rfl⟩ | ⟨-, rfl⟩ | ⟨-, hour, dst, off, hhour, hkept, rfl⟩ := advanceSecond_outcomes hrange hleap h
  · have hnext := passesNow_second hpasses
    obtain ⟨hnormal, hlt, -⟩ := hpasses
    exact ⟨civilInRange_of_second hrange (by omega), .inl ⟨hnormal, by simp only [hnext]; omega⟩, hdst⟩
  · exact ⟨civilInRange_of_second hrange (n := 60) (by decide), .inr ⟨rfl, rfl⟩, hdst⟩
  · have hsecond : (atNewMinute s hour dst off).ct.second = 0 := settled_second _ _ _
    exact ⟨civilInRange_settled hrange hhour (rippledMinute_le hrange), .inl ⟨rfl, by rw [hsecond]; decide⟩,
      dstConsistent_of_dstKept hdst hkept rfl⟩

/-- The deactivation that would borrow from hour 0 is one that LOAD refuses (70_reset_and_hazards.md R301, R122). -/
theorem rippledHour_ne_zero_of_deactivation {s : State} (hdst : dstConsistent s) (hcodes : codesLegal s.cfg = true)
    (hdue : dstDue s) (hactive : s.dst.active = true) : rippledHour s.ct ≠ 0 := by
  intro hzero
  obtain ⟨htarget, hpend⟩ := hdst
  obtain ⟨hpending, -, -, hhour, hminute⟩ := hdue
  obtain ⟨hreq, hactive0⟩ := hpend hpending
  obtain ⟨-, -, -, hborrow⟩ := (codesLegal_iff s.cfg).1 hcodes
  rw [dstRequestBorrows_iff, ← htarget, ← hactive0] at hborrow
  refine hborrow ⟨hreq, hactive, BitVec.eq_of_toNat_eq (hhour.symm.trans hzero), fun h0 => ?_⟩
  rw [h0] at hminute
  unfold rippledHour at hzero
  unfold rippledMinute at hminute
  split at hzero
  · omega
  · rw [if_neg ‹_›] at hminute
    exact absurd hminute (by simp)

theorem advanceSecond_answers {s : State} (hs : CivilInv s) (hcodes : codesLegal s.cfg = true) :
    ∃ t extra, advanceSecond s = .ok (t, extra) := by
  obtain ⟨hrange, hleap, hdst⟩ := hs
  obtain hpasses | hins | hwraps := passes_or_inserts_or_wraps hleap
  · exact ⟨_, _, advanceSecond_of_passesNow hrange hpasses⟩
  · exact ⟨_, _, advanceSecond_of_insertsNow hrange hins⟩
  by_cases hdue : dstDue s
  · cases hactive : s.dst.active with
    | false => exact ⟨_, _, Proofs.dstActivationSkipsAnHour s hrange hwraps hdue hactive⟩
    | true =>
      have hne := rippledHour_ne_zero_of_deactivation hdst hcodes hdue hactive
      exact ⟨_, _, (Proofs.dstDeactivationRepeatsAnHour s hrange hwraps hdue hactive).1 (by omega)⟩
  · exact ⟨_, _, advanceSecond_of_not_dstDue hrange hwraps hdue⟩

/-! ## The DST target, from any state -/

theorem advanceMinute_dst_target {s t : State} (h : advanceMinute s = .ok t) : t.dst.target = s.dst.target := by
  obtain ⟨-, h⟩ | ⟨-, rfl⟩ := advanceMinute_ok h
  · have hripple : (rippleMinute s).dst = s.dst := by
      obtain ⟨-, h⟩ | ⟨-, h⟩ := rippleMinute_cases s <;> rw [h]
    obtain ⟨-, -, -, rfl⟩ | ⟨-, -, rfl⟩ | ⟨-, rfl⟩ := dstSwitch_ok h <;> simp [hripple]
  · rfl

/-- No step of AdvanceSecond writes the target (40_civil_time.md R111), in the ranges or not. -/
theorem advanceSecond_dst_target {s t : State} {extra : Bool} (h : advanceSecond s = .ok (t, extra)) :
    t.dst.target = s.dst.target := by
  obtain ⟨u, hminute, hyear⟩ := advanceSecond_ok h
  have harm : (armLeap s).dst = s.dst := by
    obtain ⟨h, -⟩ | ⟨h, -⟩ | h := armLeap_cases s <;> rw [h]
  have hsecond : (advanceSecondField (armLeap s)).dst = (armLeap s).dst := by
    obtain ⟨_, -, h⟩ | ⟨-, h⟩ := advanceSecondField_cases (armLeap s) <;> rw [h]
  have hhour : (normalizeHour u).dst = u.dst := by
    obtain ⟨-, h⟩ | ⟨-, h⟩ := normalizeHour_cases u <;> rw [h]
  have hroll : (rollYear (normalizeHour u)).1.dst = (normalizeHour u).dst := by
    obtain ⟨-, h⟩ | ⟨-, h⟩ := rollYear_cases (normalizeHour u) <;> rw [h]
  rw [hyear] at hroll
  rw [hroll, hhour, advanceMinute_dst_target hminute, hsecond, harm]

/-! ## The cursor and the fault registers along the encoding of a second -/

/-- The cursor is inside the active buffer (10_state.md R29). -/
def cursorInside (s : State) : Prop := s.cur.toNat ≤ (lastIndex s.cfg.fmt).toNat

/-- The fault registers are clear. -/
def faultsClear (s : State) : Prop := s.fault = false ∧ s.fcause = .none ∧ s.findex = 0

theorem faultsClear_of_consistent {s : State} (h : faultConsistent s) (hclear : s.fault = false) :
    faultsClear s ∧ s.bitIndex = 0 := by
  obtain ⟨hfault, hcause, hindex, hbit⟩ | ⟨hfault, -⟩ := h
  · exact ⟨⟨hfault, hcause, hindex⟩, hbit⟩
  · exact absurd hfault (by simp [hclear])

theorem cursorInside_of_effect {s t : State} (h : entryEffect s t) (hs : cursorInside s) : cursorInside t := by
  obtain ⟨c, -, rfl⟩ | ⟨ps, -, rfl | ⟨hcur, rfl⟩⟩ := h
  · exact hs
  · exact hs
  · exact cursorLeft_inside hcur hs

/-- An entry leaves the fault registers as they were, or writes all three with its own position (60_exceptions.md
R262). -/
theorem faults_of_effect {s t : State} (h : entryEffect s t) :
    t.bitIndex = s.bitIndex ∧
    ((t.fault = s.fault ∧ t.fcause = s.fcause ∧ t.findex = s.findex) ∨
     (t.fault = true ∧ t.fcause ≠ .none ∧ t.findex = position t)) := by
  obtain ⟨c, hc, rfl⟩ | ⟨ps, -, rfl | ⟨-, rfl⟩⟩ := h
  · exact ⟨rfl, .inr ⟨rfl, hc, rfl⟩⟩
  · exact ⟨rfl, .inl ⟨rfl, rfl, rfl⟩⟩
  · exact ⟨rfl, .inl ⟨rfl, rfl, rfl⟩⟩

theorem faultConsistent_of_effect {s t : State} (h : entryEffect s t) (hs : faultsClear s) (hbit : s.bitIndex = 0) :
    faultConsistent t := by
  obtain ⟨hclear, hnone, hzero⟩ := hs
  obtain ⟨hindex, ⟨hfault, hcause, hfindex⟩ | ⟨hfault, hcause, hfindex⟩⟩ := faults_of_effect h
  · exact .inl ⟨hfault.trans hclear, hcause.trans hnone, hfindex.trans hzero, hindex.trans hbit⟩
  · exact .inr ⟨hfault, hcause, hfindex, by simp [hindex, hbit]⟩

theorem cursorInside_irigPrepare {s : State} (hirig : s.cfg.fmt.irig = true) : cursorInside (irigPrepare s) := by
  simp [cursorInside, lastIndex, hirig]

theorem cursorInside_wwvPrepare {s : State} (hwwv : s.cfg.fmt.irig = false) (hs : cursorInside s) :
    cursorInside (wwvPrepare s) := by
  rw [cursorInside, lastIndex_toNat] at *
  simp only [hwwv, wwvPrepare_cfg, wwvPrepare_cur] at *
  split
  · decide
  · exact hs

theorem runBits_keeps {s t : State} (hcur : cursorInside s) (hfaults : faultsClear s)
    (h : runBits 100 0 s = .next t) : cursorInside t ∧ faultConsistent t := by
  refine runBits_rule (P := fun _ u => cursorInside u ∧ faultsClear u)
    (Q := fun t => cursorInside t ∧ faultConsistent t) 100 ?bit ?stop ?done 100 0 s t rfl ⟨hcur, hfaults⟩ h
  case bit =>
    intro b u v _ ⟨hcur, hclear, hnone, hzero⟩ hrun hvclear
    have heffect := runBit_effect hrun
    obtain ⟨-, ⟨hfault, hcause, hfindex⟩ | ⟨hfault, -⟩⟩ := faults_of_effect heffect
    · exact ⟨cursorInside_of_effect heffect hcur, hfault.trans hclear, hcause.trans hnone, hfindex.trans hzero⟩
    · exact absurd hfault (by simp [hvclear])
  case stop =>
    intro b u v hb ⟨hcur, hclear, _⟩ hrun hraised
    have heffect := runBit_effect hrun
    obtain ⟨hindex, ⟨hfault, -⟩ | ⟨hfault, hcause, hfindex⟩⟩ := faults_of_effect heffect
    · exact absurd (hfault.trans hclear) (by simp [hraised])
    · refine ⟨cursorInside_of_effect heffect hcur, .inr ⟨hfault, hcause, hfindex, ?_⟩⟩
      rw [hindex, atBit_bitIndex, BitVec.toNat_ofNat]
      omega
  case done => exact fun u ⟨hcur, hclear, hnone, hzero⟩ => ⟨hcur, .inl ⟨hclear, hnone, hzero, rfl⟩⟩

theorem encodeSecond_keeps {s t : State} (hcur : cursorInside s) (hfaults : faultsClear s)
    (h : encodeSecond s = .next t) : cursorInside t ∧ faultConsistent t := by
  unfold encodeSecond at h
  split at h
  case isTrue hirig => exact runBits_keeps (cursorInside_irigPrepare hirig) hfaults h
  case isFalse hwwv =>
    obtain ⟨e, -, h⟩ := runEntry_next h
    have heffect := execEntry_next h
    exact ⟨cursorInside_of_effect heffect (cursorInside_wwvPrepare (by simpa using hwwv) hcur),
      faultConsistent_of_effect heffect hfaults rfl⟩

theorem encodeSecond_answers {s : State} (hrange : civilInRange s.ct) (hcur : cursorInside s) :
    ∃ t, encodeSecond s = .next t := by
  unfold encodeSecond
  split
  case isTrue hirig =>
    exact runBits_answers (P := fun _ u => cursorInside u) 100 (fun _ _ hb hu => runBit_answers hb hu)
      (fun _ _ _ _ hu hrun _ => cursorInside_of_effect (runBit_effect hrun) hu) 100 0 _ rfl
      (cursorInside_irigPrepare hirig)
  case isFalse hwwv =>
    obtain ⟨-, -, -, -, -, hsecond⟩ := hrange
    exact runEntry_answers (by change _ < 61; omega) (cursorInside_wwvPrepare (by simpa using hwwv) hcur)

/-! ## A TICK that is not stuck -/

/-- The state AdvanceSecond works on in a TICK. -/
def ticking (s : State) (rc : RcMode) (rest : List Command) : State := { s with cmds := rest, out := [], rc := rc }

theorem tickAdvances_sameOutsideCivil {s u : State} {rc : RcMode} {rest : List Command} {extra : Bool}
    (h : tickAdvances s rc rest u extra) : sameOutsideCivil (ticking s rc rest) u := by
  obtain ⟨-, -, -, hadv⟩ := h
  exact sameOutsideCivil_advanceSecond hadv

theorem civilInv_of_tickAdvances {s u : State} {rc : RcMode} {rest : List Command} {extra : Bool} (hs : CivilInv s)
    (h : tickAdvances s rc rest u extra) : CivilInv u := by
  obtain ⟨-, -, -, hadv⟩ := h
  exact civilInv_advanceSecond (s := ticking s rc rest) ⟨hs.range, hs.leap, hs.dst⟩ hadv

theorem cursorInside_of_tickAdvances {s u : State} {rc : RcMode} {rest : List Command} {extra : Bool}
    (hcur : cursorInside s) (h : tickAdvances s rc rest u extra) : cursorInside u := by
  obtain ⟨hsame, -, -, -, -, hcfg, -⟩ := tickAdvances_sameOutsideCivil h
  rwa [cursorInside, hsame, hcfg]

theorem tickAdvances_of_legal {s : State} {code : RcPort} {rc : RcMode} {rest : List Command}
    (hcmds : s.cmds = .tick code :: rest) (hcode : rcOfCode code = some rc) (hloaded : s.loaded = true)
    (hclear : s.fault = false) (hs : CivilInv s) (hcodes : codesLegal s.cfg = true) :
    ∃ u extra, tickAdvances s rc rest u extra := by
  obtain ⟨u, extra, hadv⟩ :=
    advanceSecond_answers (s := ticking s rc rest) ⟨hs.range, hs.leap, hs.dst⟩ hcodes
  exact ⟨u, extra, hloaded, hclear, ⟨code, hcmds, hcode⟩, hadv⟩

/-- The state the encoding of a TICK starts from. -/
theorem tickAdvances_step_next {s u t : State} {rc : RcMode} {rest : List Command} {extra : Bool}
    (h : tickAdvances s rc rest u extra) (hstep : step s = .next t) :
    ∃ w, encodeSecond (u.emitAll (extraGroup u extra)) = .next w ∧ t = w.endTick := by
  rw [step_of_tickAdvances h, emitExtra_eq] at hstep
  exact finishTick_next hstep

theorem tickAdvances_step_answers {s u : State} {rc : RcMode} {rest : List Command} {extra : Bool} (hs : CivilInv s)
    (hcur : cursorInside s) (h : tickAdvances s rc rest u extra) : ∃ t, step s = .next t := by
  have hrange := (civilInv_of_tickAdvances hs h).range
  have hinside := cursorInside_of_tickAdvances hcur h
  obtain ⟨w, hw⟩ := encodeSecond_answers (s := u.emitAll (extraGroup u extra)) hrange hinside
  exact ⟨w.endTick, by rw [step_of_tickAdvances h, emitExtra_eq, hw]; rfl⟩

/-- What a TICK that is not stuck leaves of the state AdvanceSecond made, whatever its encoding does (R199). -/
theorem tickAdvances_step_keeps {s u t : State} {rc : RcMode} {rest : List Command} {extra : Bool}
    (h : tickAdvances s rc rest u extra) (hstep : step s = .next t) :
    t.ct = u.ct ∧ t.leapState = u.leapState ∧ t.dst = u.dst ∧ t.off = u.off ∧ t.cfg = s.cfg ∧ t.loaded = s.loaded ∧
    t.cmds = rest ∧ t.rc = .none := by
  obtain ⟨-, -, -, -, -, hcfg, hloaded, -, -, hcmds⟩ := tickAdvances_sameOutsideCivil h
  obtain ⟨w, hw, rfl⟩ := tickAdvances_step_next h hstep
  obtain ⟨hcfg', hct, hleap, hdst, hoff, hloaded', hcmds', -⟩ := sameOutsideEncoder_encodeSecond hw
  exact ⟨hct, hleap, hdst, hoff, hcfg'.trans hcfg, hloaded'.trans hloaded, hcmds'.trans hcmds, rfl⟩

theorem step_tick {s : State} {code : RcPort} {rest : List Command} (hcmds : s.cmds = .tick code :: rest) :
    step s = tickCommand code { s with cmds := rest } := by
  simp only [step, runCommand, hcmds]

theorem step_idle {s : State} (hcmds : s.cmds = []) : step s = .next s := by
  simp only [step, runCommand, hcmds]

/-- A TICK that answers found the TCE stuck and changed no register, or advanced. -/
theorem step_tick_cases {s t : State} {code : RcPort} {rest : List Command} (hcmds : s.cmds = .tick code :: rest)
    (h : step s = .next t) :
    t = { s with cmds := rest, out := [] } ∨ ∃ rc u extra, tickAdvances s rc rest u extra := by
  rw [step_tick hcmds] at h
  obtain ⟨hloaded, rc, hcode, ⟨-, rfl⟩ | ⟨hclear, u, extra, -, hadv, -⟩⟩ := tickCommand_next h
  · exact .inl rfl
  · exact .inr ⟨rc, u, extra, hloaded, hclear, ⟨code, hcmds, hcode⟩, hadv⟩

/-! ## The invariant -/

theorem civilInv_afterLoad {c : Config} (h : configLegal c) (rest : List Command) :
    CivilInv (State.afterLoad c rest) := by
  obtain ⟨hyear, hday, hdays, hhour, hminute, hsecond⟩ := (startLegal_iff c.start).1 h.1
  exact ⟨⟨hyear, hday, hdays, hhour, hminute, hsecond.trans (by decide)⟩, .inl ⟨rfl, hsecond⟩, rfl,
    fun hreq => ⟨hreq, rfl⟩⟩

theorem inv_afterLoad {c : Config} {rest : List Command} (hlegal : configLegal c) (htables : Memory.wf c.tables = true)
    (hpending : ∀ k ∈ rest, commandTablesCanonical k) : Inv (State.afterLoad c rest) := by
  have hcivil := civilInv_afterLoad hlegal rest
  exact {
    loaded := rfl
    civil := hcivil.range
    leap := hcivil.leap
    dst := hcivil.dst
    cursor := le_rfl
    faults := .inl ⟨rfl, rfl, rfl, rfl⟩
    config := hlegal
    tables := htables
    rate := rfl
    pending := hpending }

/-- A TICK on a stuck TCE keeps the invariant: it takes its command and empties the output. -/
theorem inv_of_stuck {s : State} {k : Command} {rest : List Command} (hs : Inv s) (hcmds : s.cmds = k :: rest) :
    Inv { s with cmds := rest, out := [] } :=
  { hs with pending := fun k' hk' => hs.pending k' (hcmds ▸ List.mem_cons_of_mem k hk') }

theorem inv_of_tickAdvances {s u t : State} {rc : RcMode} {rest : List Command} {extra : Bool} (hs : Inv s)
    (h : tickAdvances s rc rest u extra) (hstep : step s = .next t) : Inv t := by
  obtain ⟨hct, hleap, hdst, -, hcfg, hloaded, hcmds, hrc⟩ := tickAdvances_step_keeps h hstep
  obtain ⟨-, -, hfault, hcause, hfindex, -⟩ := tickAdvances_sameOutsideCivil h
  obtain ⟨hucfg, -, -⟩ := tickAdvances_keeps h
  have hcivil := civilInv_of_tickAdvances (civilInv_of_inv hs) h
  have ⟨_, hclear, ⟨code, hcommand, _⟩, _⟩ := h
  have hclears : faultsClear u := by
    have hs' := (faultsClear_of_consistent hs.faults hclear).1
    rwa [faultsClear, hfault, hcause, hfindex]
  have hinside : cursorInside u := cursorInside_of_tickAdvances hs.cursor h
  obtain ⟨w, hw, rfl⟩ := tickAdvances_step_next h hstep
  obtain ⟨hwcur, hwfaults⟩ := encodeSecond_keeps (s := u.emitAll _) hinside hclears hw
  exact {
    loaded := hloaded.trans hs.loaded
    civil := by rw [hct]; exact hcivil.range
    leap := by rw [leapConsistent, hct, hleap]; exact hcivil.leap
    dst := by rw [dstConsistent, hdst, hcfg, ← hucfg]; exact hcivil.dst
    cursor := hwcur
    faults := hwfaults
    config := by rw [hcfg]; exact hs.config
    tables := by rw [hcfg]; exact hs.tables
    rate := hrc
    pending := fun k hk => hs.pending k (by rw [hcommand]; exact List.mem_cons_of_mem _ (hcmds ▸ hk)) }

end Sys2Proof.Machine
end

section
/-! PROOFS. The statements on the invariant, on the commands that complete, and on what a TICK keeps. -/

namespace Sys2Proof.Proofs

open Sys2Proof.Machine Sys2Proof.Spec

/-- Settles O52, by the command: an idle step and a stuck TICK change no register, a LOAD gives the reset values, and a
TICK that advances keeps the civil part by AdvanceSecond and the cursor and fault registers by the encoding. -/
theorem stepKeepsTheInvariant : Obligations.StepKeepsTheInvariant := by
  intro s t hs hstep
  match hcmds : s.cmds with
  | [] =>
    rw [step_idle hcmds] at hstep
    exact Host.Outcome.next.inj hstep ▸ hs
  | .load c :: rest =>
    rw [step_load hcmds] at hstep
    obtain ⟨hstart, hcodes, rfl⟩ := loadCommand_next hstep
    refine inv_afterLoad ⟨hstart, hcodes⟩ (hs.pending (.load c) (by simp [hcmds])) fun k hk => hs.pending k ?_
    rw [hcmds]
    exact List.mem_cons_of_mem _ hk
  | .tick code :: rest =>
    obtain rfl | ⟨rc, u, extra, hadv⟩ := step_tick_cases hcmds hstep
    · exact inv_of_stuck hs hcmds
    · exact inv_of_tickAdvances hs hadv hstep

/-- Settles O53: a LOAD accepts what is legal, a stuck TICK answers at once, and any other advances and encodes. -/
theorem legalCommandsAlwaysComplete : Obligations.LegalCommandsAlwaysComplete := by
  intro s hs hlegal
  match hcmds : s.cmds with
  | [] => exact ⟨s, step_idle hcmds⟩
  | .load c :: rest =>
    have hconfig : configLegal c := hlegal (.load c) (by simp [hcmds])
    exact ⟨_, (step_load hcmds).trans (loadCommand_of_legal hconfig rest)⟩
  | .tick code :: rest =>
    have hcode : code.toNat < 3 := hlegal (.tick code) (by simp [hcmds])
    cases hfault : s.fault with
    | true => exact ⟨_, step_of_stuck hs.loaded hfault hcode hcmds⟩
    | false =>
      obtain ⟨rc, hrc⟩ := Option.isSome_iff_exists.1 (rcOfCode_isSome_of_lt code hcode)
      obtain ⟨u, extra, hadv⟩ :=
        tickAdvances_of_legal hcmds hrc hs.loaded hfault (civilInv_of_inv hs) hs.config.2
      exact tickAdvances_step_answers (civilInv_of_inv hs) hs.cursor hadv

/-- Settles O51: the default configuration is one LOAD accepts, with the default tables. -/
theorem invariantHoldsAtReset : Obligations.InvariantHoldsAtReset :=
  inv_afterLoad ⟨by decide, by decide⟩ memory_wf_nil (by simp)

/-- Settles O50: AdvanceSecond writes no configuration and keeps the DST target, and the encoding writes neither. -/
theorem tickKeepsTheConfiguration : Obligations.TickKeepsTheConfiguration := by
  intro s t code rest hcmds hstep
  obtain rfl | ⟨rc, u, extra, hadv⟩ := step_tick_cases hcmds hstep
  · exact ⟨rfl, fun _ _ => rfl, rfl, rfl, rfl⟩
  · obtain ⟨-, -, hdst, -, hcfg, hloaded, hrest, -⟩ := tickAdvances_step_keeps hadv hstep
    obtain ⟨-, -, -, hsecond⟩ := hadv
    have htarget := advanceSecond_dst_target (s := ticking s rc rest) hsecond
    exact ⟨hcfg, fun _ _ => by rw [hcfg], hloaded, hrest, hdst ▸ htarget⟩

/-- Settles O49: the state after a LOAD meets what a TICK needs to complete, and below second 58 no leap event arms. -/
theorem firstTickIsStartPlusOne : Obligations.FirstTickIsStartPlusOne := by
  intro s c rest code rc hcmds hlegal hcode
  have hload : step s = .next (State.afterLoad c (.tick code :: rest)) :=
    (step_load hcmds).trans (loadCommand_of_legal hlegal _)
  have hcivil := civilInv_afterLoad hlegal (.tick code :: rest)
  obtain ⟨u, extra, hadv⟩ := tickAdvances_of_legal (s := State.afterLoad c (.tick code :: rest)) rfl hcode rfl rfl
    hcivil hlegal.2
  obtain ⟨t, htick⟩ := tickAdvances_step_answers hcivil le_rfl hadv
  obtain ⟨hct, -, -, -, hcfg, -, hrest, -⟩ := tickAdvances_step_keeps hadv htick
  refine ⟨u, t, extra, hadv, (run_next 1 hload).trans (run_next 0 htick), hct, hcfg, hrest, fun hlt => ?_⟩
  obtain ⟨-, -, -, hsec⟩ := hadv
  have hone := advanceSecond_of_passesNow (s := ticking (State.afterLoad c (.tick code :: rest)) rc rest) hcivil.range
    (passesNow_of_second_lt rfl hlt)
  cases hone.symm.trans hsec
  exact hct

end Sys2Proof.Proofs
end

section
/-! SUPPORT and proofs: what one TICK runs, what is refused of it, and where a fault stops it (41_format_tables.md R144
to R152, 60_exceptions.md R262 to R271). First the rules: the TICK of each format, one turn of the loop, the loop cut at
the position that raised. Then the statements. -/

namespace Sys2Proof.Machine

open Sys2Proof.Spec

/-! ## The TICK of each format -/

/-- A WWV TICK runs the entry of the second that begins (41_format_tables.md R144). -/
theorem step_of_wwv {s u : State} {rc : RcMode} {rest : List Command} {extra : Bool} (hwwv : u.cfg.fmt.irig = false)
    (h : tickAdvances s rc rest u extra) :
    step s = finishTick (runEntry .wwv u.ct.second.toNat (wwvPrepare (u.emitAll (extraGroup u extra)))) := by
  rw [step_of_tickAdvances h, emitExtra_eq, encodeSecond, if_neg (by simp [hwwv])]
  rfl

/-- An IRIG-B TICK runs the loop over the 100 bit positions (41_format_tables.md R152). -/
theorem step_of_irig {s u : State} {rc : RcMode} {rest : List Command} {extra : Bool} (hirig : u.cfg.fmt.irig = true)
    (h : tickAdvances s rc rest u extra) :
    step s = finishTick (runBits 100 0 (irigPrepare (u.emitAll (extraGroup u extra)))) := by
  rw [step_of_tickAdvances h, emitExtra_eq, encodeSecond, if_pos (by simpa using hirig)]
  rfl

theorem runEntry_of_read {tb : TableSpace} {i : Nat} {e : Byte} {s : State} (h : tblRead s.cfg.tables tb i = some e) :
    runEntry tb i s = execEntry e s := by
  simp [runEntry, h]

theorem runBit_of_read {b : Nat} {tb : TableSpace} {e : Byte} {s : State}
    (hframe : frameTable s.cfg.frames (b / 10 + 1) = some tb) (hread : tblRead s.cfg.tables tb (b % 10) = some e) :
    runBit b s = execEntry e (s.atBit b) := by
  simp only [runBit, hframe]
  exact runEntry_of_read hread

/-- A bit that raises nothing hands its state to the rest of the loop. -/
theorem runBits_of_clear {b : Nat} {s u : State} (h : runBit b s = .next u) (hclear : u.fault = false) (n : Nat) :
    runBits (n + 1) b s = runBits n (b + 1) u := by
  simp [runBits, h, hclear]

/-- A loop that answers ran its first bit, which raised and stopped it or handed its state on. -/
theorem runBits_succ_next {n b : Nat} {s t : State} (h : runBits (n + 1) b s = .next t) :
    ∃ u, runBit b s = .next u ∧ (u.fault = true ∧ t = u ∨ u.fault = false ∧ runBits n (b + 1) u = .next t) := by
  cases hrun : runBit b s with
  | next u =>
    refine ⟨u, rfl, ?_⟩
    cases hfault : u.fault with
    | true => exact .inl ⟨rfl, Host.Outcome.next.inj (h.symm.trans (runBits_stops hrun hfault n))⟩
    | false => exact .inr ⟨rfl, (runBits_of_clear hrun hfault n).symm.trans h⟩
  | fault f => simp [runBits, hrun] at h
  | refused r => simp [runBits, hrun] at h

/-! ## Where a fault stops the loop -/

theorem raised_of_effect {s t : State} (h : entryEffect s t) (hs : s.fault = false) (ht : t.fault = true) :
    ∃ c, c ≠ .none ∧ t = s.raised c := by
  obtain hraised | ⟨ps, -, rfl | ⟨-, rfl⟩⟩ := h
  · exact hraised
  · exact absurd hs (by simpa using ht)
  · exact absurd hs (by simpa using ht)

/-- A loop that raised is a shorter loop that raised nothing, and then one bit that raises. -/
theorem runBits_raised {n b : Nat} {s t : State} (hs : s.fault = false) (h : runBits n b s = .next t)
    (ht : t.fault = true) :
    ∃ k v, k < n ∧ runBits k b s = .next v ∧ v.fault = false ∧ runBit (b + k) v = .next t := by
  induction n generalizing b s with
  | zero =>
    obtain rfl : s.atBit 0 = t := Host.Outcome.next.inj h
    exact absurd hs (by simpa using ht)
  | succ n ih =>
    obtain ⟨u, hu, ⟨-, rfl⟩ | ⟨hclear, hrest⟩⟩ := runBits_succ_next h
    · exact ⟨0, s.atBit 0, by omega, rfl, hs, hu⟩
    · obtain ⟨k, v, hk, hruns, hvclear, hlast⟩ := ih hclear hrest
      refine ⟨k + 1, v, by omega, (runBits_of_clear hu hclear k).trans hruns, hvclear, ?_⟩
      rwa [show b + (k + 1) = b + 1 + k by omega]

/-- The first `n` bits of a second, where they raise nothing: `irigBitsSent_of_encodeIrig` for a part of the loop. -/
theorem irigBitsSent_of_runBits {n : Nat} {s t : State} (hn : n ≤ 100) (hirig : s.cfg.fmt.irig = true)
    (h : runBits n 0 s = .next t) (hclear : t.fault = false) : IrigBitsSent s.cfg s.rc s.out n t :=
  runBits_rule (Q := fun t => t.fault = false → IrigBitsSent s.cfg s.rc s.out n t) n
    (fun _ _ _ hb hu hrun hclear => irigBitsSent_succ hirig (by omega) hu hrun hclear)
    (fun _ _ _ _ _ _ hraised hclear => absurd hraised (by simp [hclear]))
    (fun _ hu _ => ⟨hu.cfg, hu.rate, hu.sent⟩)
    n 0 s t (by omega) (irigBitsSent_zero s) h hclear

/-- The same in IRIG-B format, with what the shorter loop has sent: the raise is all that follows it, at its own bit
position (60_exceptions.md R262, R263). -/
theorem runBits_raised_state {s t : State} (hirig : s.cfg.fmt.irig = true) (hs : s.fault = false)
    (h : runBits 100 0 s = .next t) (ht : t.fault = true) :
    ∃ k c v, k ≤ 99 ∧ c ≠ .none ∧ runBits k 0 s = .next v ∧ v.fault = false ∧ runBit k v = .next t ∧
      t = (v.atBit k).raised c ∧ position (v.atBit k) = BitVec.ofNat 7 k ∧
      ∃ ps, v.out = s.out ++ ps ∧ ps.length = 2 * k := by
  obtain ⟨k, v, hk, hruns, hclear, hlast⟩ := runBits_raised hs h ht
  rw [Nat.zero_add] at hlast
  obtain ⟨hcfg, -, ps, hout, hlen, -⟩ := irigBitsSent_of_runBits (by omega) hirig hruns hclear
  obtain ⟨c, hc, rfl⟩ := raised_of_effect (runBit_effect hlast) hclear ht
  have hposition : position (v.atBit k) = BitVec.ofNat 7 k := if_pos (by simpa [hcfg] using hirig)
  exact ⟨k, c, v, by omega, hc, hruns, hclear, hlast, rfl, hposition, ps, hout, hlen⟩

theorem position_of_wwv {s : State} (h : s.cfg.fmt.irig = false) : position s = s.ct.second.setWidth 7 := by
  simp [position, h]

end Sys2Proof.Machine
end

section
/-! PROOFS. The statements on the TICK: what it runs, what is refused of it, and the precise fault. -/

namespace Sys2Proof.Proofs

open Sys2Proof.Machine Sys2Proof.Spec

/-- Settles O6: with an empty list there is no command to run. -/
theorem idleStepKeepsTheState : Obligations.IdleStepKeepsTheState := fun _ => step_idle

/-- Settles O48: the two refusals are checked before anything else of a TICK, the one of a TCE not loaded first. -/
theorem ticksOutsideTheirContractAreRefused : Obligations.TicksOutsideTheirContractAreRefused := by
  intro s rest
  refine ⟨fun code hcmds hloaded => ?_, fun hcmds hloaded => ?_⟩
  · rw [step_tick hcmds]
    exact if_pos hloaded
  · rw [step_tick hcmds]
    rw [tickCommand, if_neg (by simp [hloaded])]
    rfl

/-- Settles O4: the entry is fetched in the state R144 prepares, and a reserved operation raises there. -/
theorem tickRunsTheDecodedWwvEntry : Obligations.TickRunsTheDecodedWwvEntry := by
  intro s u rc rest extra e hwwv hadv hread x
  obtain ⟨hcfg, -, -⟩ := tickAdvances_keeps hadv
  have hentry : step s = finishTick (execEntry e x) := by
    rw [step_of_wwv (hcfg ▸ hwwv) hadv]
    exact congrArg finishTick (runEntry_of_read hread)
  refine ⟨fun i hdecode => ?_, fun hreserved => ?_⟩
  · rw [hentry, execEntry_of_ok hdecode]
  · rw [hentry, execEntry_of_ge (by rwa [opField_toNat])]
    rfl

/-- Settles O5: the TICK is the loop, and one turn of the loop is the decoded entry of its position. -/
theorem tickRunsTheDecodedIrigEntries : Obligations.TickRunsTheDecodedIrigEntries := by
  refine ⟨fun s u rc rest extra hirig hadv => step_of_irig hirig hadv, ?_, fun s b => rfl⟩
  intro s n b tb e hframe hread x
  have hentry : runBit b s = execEntry e x := runBit_of_read hframe hread
  refine ⟨fun i hdecode => ?_, fun hreserved => ?_⟩
  · rw [runBits, hentry, execEntry_of_ok hdecode]
    cases exec i x <;> rfl
  · rw [execEntry_of_ge (by rwa [opField_toNat])] at hentry
    exact runBits_stops hentry rfl n

/-- Settles O44. In WWV one entry runs, and a raise writes the fault registers of the state it runs in. In IRIG-B the
loop is cut at the bit that raised. -/
theorem faultIsPrecise : Obligations.FaultIsPrecise := by
  intro s u t rc rest extra hinv hadv hstep hraised
  obtain ⟨hcfg, -, hout⟩ := tickAdvances_keeps hadv
  obtain ⟨-, -, hfault, -⟩ := tickAdvances_sameOutsideCivil hadv
  have ⟨_, hrunning, _, _⟩ := hadv
  have hclear : u.fault = false := hfault.trans hrunning
  have hemit : u.emitAll (extraGroup u extra) = { u with out := extraGroup u extra } := by
    simp [State.emitAll, hout]
  cases hfmt : s.cfg.fmt.irig with
  | false =>
    rw [← hcfg] at hfmt
    rw [step_of_wwv hfmt hadv, hemit] at hstep
    obtain ⟨w, hw, rfl⟩ := finishTick_next hstep
    obtain ⟨e, -, hw⟩ := runEntry_next hw
    obtain ⟨c, hc, rfl⟩ := raised_of_effect (execEntry_next hw) hclear hraised
    refine ⟨hc, fun _ => ?_, nofun⟩
    have hposition := position_of_wwv (s := wwvPrepare { u with out := extraGroup u extra }) hfmt
    rw [State.raised, hposition]
    rfl
  | true =>
    rw [← hcfg] at hfmt
    rw [step_of_irig hfmt hadv, hemit] at hstep
    obtain ⟨w, hw, rfl⟩ := finishTick_next hstep
    obtain ⟨k, c, v, hk, hc, hruns, hvclear, hlast, rfl, hposition, hsent⟩ :=
      runBits_raised_state (s := irigPrepare { u with out := extraGroup u extra }) (t := w) hfmt hclear hw hraised
    have hindex : (BitVec.ofNat 7 k).toNat = k := Nat.mod_eq_of_lt (by omega)
    have hfindex : ((v.atBit k).raised c).endTick.findex = BitVec.ofNat 7 k := hposition
    refine ⟨hc, nofun, fun _ => ?_⟩
    rw [hfindex, hindex]
    refine ⟨hk, v, hruns, hvclear, ?_, hlast, hsent⟩
    rw [State.raised, hposition]
    rfl

end Sys2Proof.Proofs
end

section
/-! SUPPORT and proofs: the bounds of the digits (43_bcd_encoder.md R229, R233), and the IRIG-B code outside IEEE-1344
(R230). First the rules: the value of a digit of the IRIG-B buffer, and the states that send the same code. Then the two
statements. -/

namespace Sys2Proof.Machine

open Sys2Proof.Spec

/-! ## The values of the buffers' digits -/

theorem digitAt_toNat (ds : List Digit) (i : Nat) : (digitAt ds i).toNat = (ds.map BitVec.toNat).getD i 0 := by
  rw [digitAt, List.getD_eq_getElem?_getD, List.getElem?_map]
  cases ds[i]? <;> rfl

/-- The value of a digit of the IRIG-B buffer, by its place in the list of R224. -/
theorem irigDigit_toNat (s : State) (i : Nat) : (digitAt (irigBuffer s) i).toNat =
    (((hex5 (sbs s.ct)).map BitVec.toNat ++ (hex5 (cfWord s).toNat).map BitVec.toNat ++
      (yearDigits s).map BitVec.toNat) ++ (dayTimeDigits s.ct).map BitVec.toNat).getD i 0 := by
  rw [digitAt_toNat, irigBuffer, List.map_append, List.map_append, List.map_append]

theorem wwvBuffer_decimal (t : CivilTime) : ∀ d ∈ wwvBuffer t, d.toNat ≤ 9 := by
  simp [wwvBuffer, decimalDigit_le, -decimalDigit_toNat]

theorem irigBuffer_drop_ten_decimal (s : State) : ∀ d ∈ (irigBuffer s).drop 10, d.toNat ≤ 9 := by
  rw [irigBuffer_drop_ten]
  exact List.forall_mem_append.2 ⟨yearDigits_decimal s, dayTimeDigits_decimal s.ct⟩

/-! ## States that send the same IRIG-B code outside IEEE-1344 -/

/-- Two states of IRIG-B format without IEEE-1344 that agree on everything the code is made of. What they may differ in
is the leap and DST inputs, the offset, the time quality and the registers of the fault's cause. -/
structure SameCode (s s' : State) : Prop where
  irig : s.cfg.fmt.irig = true
  plain : s.cfg.fmt.ieee = false
  fmt : s'.cfg.fmt = s.cfg.fmt
  tables : s'.cfg.tables = s.cfg.tables
  frames : s'.cfg.frames = s.cfg.frames
  rcBit : s'.cfg.irigRcBit = s.cfg.irigRcBit
  ct : s'.ct = s.ct
  cur : s'.cur = s.cur
  rc : s'.rc = s.rc
  out : s'.out = s.out
  fault : s'.fault = s.fault

/-- Whatever `r` answers, `r'` answers with the same code. -/
def answersSameCode (r r' : Result) : Prop := ∀ t, r = .next t → ∃ t', r' = .next t' ∧ SameCode t t'

theorem answersSameCode_next {t t' : State} (h : SameCode t t') : answersSameCode (.next t) (.next t') :=
  fun _ heq => ⟨t', rfl, Host.Outcome.next.inj heq ▸ h⟩

/-- The buffer reads the control inputs through the control-functions word only, which is 0 here (R228). -/
theorem irigBuffer_of_sameCode {s s' : State} (h : SameCode s s') : irigBuffer s' = irigBuffer s := by
  simp only [irigBuffer, yearDigits, cfWord_of_not_ieee h.plain, cfWord_of_not_ieee (h.fmt ▸ h.plain), h.ct, h.fmt]

section
variable {s s' : State} (h : SameCode s s')
include h

theorem sameCode_atBit (b : Nat) : SameCode (s.atBit b) (s'.atBit b) := { h with }

theorem sameCode_raised (c : FaultCause) : SameCode (s.raised c) (s'.raised c) := { h with fault := rfl }

theorem sameCode_cursorLeft : SameCode s.cursorLeft s'.cursorLeft := { h with cur := by simp [h.cur] }

theorem sameCode_emitAll (ps : List PulseSpec) : SameCode (s.emitAll ps) (s'.emitAll ps) :=
  { h with out := by simp [h.out] }

theorem send_sameCode (hbit : s'.bitIndex = s.bitIndex) (kind : PulseKind) (tick : Bool) :
    answersSameCode (send kind tick s) (send kind tick s') := by
  have hgroup : sendGroup s' kind tick = sendGroup s kind tick := by
    simp only [sendGroup, irigBit, irigAdj, h.fmt, h.irig, h.rcBit, h.rc, hbit, if_true]
  rw [send_eq, send_eq, hgroup]
  exact answersSameCode_next (sameCode_emitAll h _)

theorem withDigit_sameCode {run run' : Digit → Result} (hrun : ∀ d, answersSameCode (run d) (run' d)) :
    answersSameCode (withDigit s run) (withDigit s' run') := by
  intro t ht
  obtain ⟨d, hread, ht⟩ := withDigit_next ht
  have hread' : bufRead s' s'.cur.toNat = some d := by
    rw [← hread, h.cur, bufRead, bufRead, activeBuffer, activeBuffer, h.fmt, if_pos h.irig, if_pos h.irig,
      irigBuffer_of_sameCode h]
  simpa only [withDigit, hread'] using hrun d t ht

theorem withDecrement_sameCode {run run' : State → Result}
    (hrun : s.cur ≠ 0 → answersSameCode (run s.cursorLeft) (run' s'.cursorLeft)) :
    answersSameCode (withDecrement s run) (withDecrement s' run') := by
  unfold withDecrement
  rw [h.cur]
  split
  · exact answersSameCode_next (sameCode_raised h _)
  · exact hrun ‹_›

theorem withKind_sameCode (arg : Argument) {run run' : PulseKind → Result}
    (hrun : ∀ k, answersSameCode (run k) (run' k)) : answersSameCode (withKind arg s run) (withKind arg s' run') := by
  unfold withKind
  split
  · exact hrun _
  · exact answersSameCode_next (sameCode_raised h _)

theorem ifAdmitted_sameCode (i : Instr) {run run' : Result}
    (hrun : admittedInIrig i = true → answersSameCode run run') :
    answersSameCode (ifAdmitted i s run) (ifAdmitted i s' run') := by
  unfold ifAdmitted
  rw [h.fmt]
  split
  case isTrue hadm => exact hrun (by simpa [admitted, h.irig] using hadm)
  case isFalse => exact answersSameCode_next (sameCode_raised h _)

/-- Every operation that IRIG-B admits reads the code's inputs only; the seven others raise FormatFault on both
sides. -/
theorem exec_sameCode (hbit : s'.bitIndex = s.bitIndex) (i : Instr) : answersSameCode (exec i s) (exec i s') := by
  have hleft := sameCode_cursorLeft h
  cases i <;> refine ifAdmitted_sameCode h _ fun hadm => ?_
  case sendData kind => exact withKind_sameCode h kind fun k => send_sameCode h hbit k true
  case sendCoefficientBit mask => exact withDigit_sameCode h fun d => send_sameCode h hbit _ true
  case decrementSendBit mask =>
    exact withDecrement_sameCode h fun _ => withDigit_sameCode hleft fun d => send_sameCode hleft hbit _ true
  case decrementSendPI | decrementSendZero =>
    exact withDecrement_sameCode h fun _ => send_sameCode hleft hbit _ true
  case noDecrementPI => exact send_sameCode h hbit _ true
  case sendDataNoTick | decrementNoTickPI | minuteMarker | leapWarningBit | dut1Bit | dst1Bit | dst2Bit =>
    cases hadm

theorem runBit_sameCode (b : Nat) : answersSameCode (runBit b s) (runBit b s') := by
  intro t ht
  obtain ⟨tb, e, hframe, hread, ht⟩ := runBit_next ht
  have hbit := sameCode_atBit h b
  rw [runBit_of_read (h.frames ▸ hframe) (h.tables ▸ hread)]
  unfold execEntry at ht ⊢
  split at ht
  · exact exec_sameCode hbit rfl _ t ht
  · exact answersSameCode_next (sameCode_raised hbit _) t ht

end

/-- The two loops stay side by side, and a fault stops both at the same position. -/
theorem runBits_sameCode (n b : Nat) {s s' : State} (h : SameCode s s') :
    answersSameCode (runBits n b s) (runBits n b s') := by
  induction n generalizing b s s' with
  | zero => exact answersSameCode_next (sameCode_atBit h 0)
  | succ n ih =>
    intro t ht
    obtain ⟨u, hu, hrest⟩ := runBits_succ_next ht
    obtain ⟨u', hu', hsame⟩ := runBit_sameCode h b u hu
    obtain ⟨hfault, rfl⟩ | ⟨hclear, hrest⟩ := hrest
    · exact ⟨u', runBits_stops hu' (hsame.fault.trans hfault) n, hsame⟩
    · rw [runBits_of_clear hu' (hsame.fault.trans hclear)]
      exact ih (b + 1) hsame t hrest

end Sys2Proof.Machine
end

section
/-! PROOFS. The statements of 43_bcd_encoder.md on the bounds of the digits and on what the code does not show. -/

namespace Sys2Proof.Proofs

open Sys2Proof.Machine Sys2Proof.Spec

/-- Settles O38: a decimal digit is below 10, and the leading digits are bounded by the ranges of what they encode, the
straight binary seconds by 86400 and the control-functions word by its 15 bits. -/
theorem bufferDigitBounds : Obligations.BufferDigitBounds := by
  intro s hrange
  have hsbs := sbs_le hrange
  obtain ⟨-, -, hdays, hhour, hminute, hsecond⟩ := hrange
  have hlen := yearLength_le s.ct.year
  have hword := (cfWord s).isLt
  have zero_of_toNat : ∀ {d : Digit}, d.toNat = 0 → d = 0 := fun h => BitVec.eq_of_toNat_eq h
  refine ⟨wwvBuffer_decimal s.ct, irigBuffer_drop_ten_decimal s, ?_, zero_of_toNat ?_, ?_, zero_of_toNat ?_, ?_, ?_,
    ?_, ?_⟩
  all_goals
    simp only [irigDigit_toNat, hex5_map_toNat, yearDigits_map_toNat, dayTimeDigits_map_toNat, List.cons_append,
      List.nil_append, List.getD_cons_succ, List.getD_cons_zero]
    omega

/-- Settles O39: the two states send the same code, and the loop keeps them so. -/
theorem controlInputsHiddenOutsideIeee : Obligations.ControlInputsHiddenOutsideIeee := by
  intro n b s s' t hirig hplain hfmt htables hframes hrcBit hct hcur hrc hout hfault hrun
  obtain ⟨t', hrun', hsame⟩ := runBits_sameCode n b
    ⟨hirig, hplain, hfmt, htables, hframes, hrcBit, hct, hcur, hrc, hout, hfault⟩ t hrun
  exact ⟨t', hrun', hsame.out, hsame.cur, hsame.fault⟩

end Sys2Proof.Proofs
end

section
/-! SUPPORT and proofs: a second with the default tables (41_format_tables.md R142 to R153). First the rules: what an
operation sends as a source of the code map, the default tables read as sources, and the seconds that send them. Then
the three statements. -/

namespace Sys2Proof.Machine

open Sys2Proof.Spec

/-! ## What an operation sends, as a source of the code map -/

/-- The source an operation of the Decrement class sends from cursor `c`, and the cursor it leaves. -/
def movedSource (src : Source) (c : Nat) : Option (Source × Nat) := if c = 0 then none else some (src, c - 1)

/-- The source SendData sends; a one stands in no code map. -/
def dataSource (kind : Argument) (c : Nat) : Option (Source × Nat) :=
  if kind = 0 then some (.zero, c) else if kind = 2 then some (.pi, c) else none

/-- The source SendDataNoTick sends; only the position indicator stands in a code map. -/
def noTickSource (kind : Argument) (c : Nat) : Option (Source × Nat) := if kind = 2 then some (.piNoTick, c) else none

/-- The source an operation sends from cursor `c`, and the cursor it leaves; none where it raises at 0 or sends a pulse
that no code map holds. -/
def sourceOf (i : Instr) (c : Nat) : Option (Source × Nat) :=
  match i with
  | .sendData kind => dataSource kind c
  | .sendDataNoTick kind => noTickSource kind c
  | .sendCoefficientBit mask => some (.digit c mask, c)
  | .decrementSendPI => movedSource .pi c
  | .decrementSendBit mask => movedSource (.digit (c - 1) mask) c
  | .decrementSendZero => movedSource .zero c
  | .noDecrementPI => some (.pi, c)
  | .decrementNoTickPI => movedSource .piNoTick c
  | .minuteMarker => some (.marker, c)
  | .leapWarningBit => some (.leapWarn, c)
  | .dut1Bit mask => some (.dut1 mask, c)
  | .dst1Bit => some (.dst, c)
  | .dst2Bit => some (.dst, c)

/-- The source a byte sends in a format, by its decoded operation where the format admits it. -/
def entrySource (irig : Bool) (e : Byte) (c : Nat) : Option (Source × Nat) :=
  match decode e with
  | .ok i => if !irig || admittedInIrig i then sourceOf i c else none
  | .error _ => none

/-- The pulse group a source is, in the active format. -/
def sourceGroup (s : State) : Source → List PulseSpec
  | .zero => sendGroup s .zero true
  | .pi => sendGroup s .pi true
  | .piNoTick => sendGroup s .pi false
  | .marker => wwvMarker s
  | .digit i mask => sendGroup s (bitTest (digitAt (activeBuffer s) i) mask) true
  | .dst => sendGroup s (flagKind s.dst.active) true
  | .leapWarn => sendGroup s (flagKind s.cfg.leapWarn) true
  | .dut1 mask => sendGroup s (bitTest s.cfg.dut1 mask) true

/-- The state with the cursor at `c`. -/
def State.atCursor (s : State) (c : Nat) : State := { s with cur := BitVec.ofNat 5 c }

theorem emitAll_emitAll (s : State) (ps qs : List PulseSpec) :
    (s.emitAll ps).emitAll qs = s.emitAll (ps ++ qs) := by
  simp [State.emitAll]

theorem atCursor_self (s : State) : s.atCursor s.cur.toNat = s := by
  simp [State.atCursor]

theorem atCursor_pred {s : State} (h : s.cur ≠ 0) : s.atCursor (s.cur.toNat - 1) = s.cursorLeft := by
  have hcur : BitVec.ofNat 5 (s.cur.toNat - 1) = s.cur - 1 := by bv_omega
  simp only [State.atCursor, State.cursorLeft, hcur]

theorem sourceGroup_atCursor (s : State) (c : Nat) (src : Source) :
    sourceGroup (s.atCursor c) src = sourceGroup s src := by
  cases src <;> rfl

theorem movedSource_eq_some {src src' : Source} {c c' : Nat} (h : movedSource src c = some (src', c')) :
    c ≠ 0 ∧ src' = src ∧ c' = c - 1 := by
  unfold movedSource at h
  split at h
  · cases h
  · cases h
    exact ⟨‹_›, rfl, rfl⟩

theorem dataSource_eq_some {kind : Argument} {src : Source} {c c' : Nat} (h : dataSource kind c = some (src, c')) :
    c' = c ∧ (kind = 0 ∧ src = .zero ∨ kind = 2 ∧ src = .pi) := by
  unfold dataSource at h
  split_ifs at h <;> cases h
  · exact ⟨rfl, .inl ⟨‹_›, rfl⟩⟩
  · exact ⟨rfl, .inr ⟨‹_›, rfl⟩⟩

theorem noTickSource_eq_some {kind : Argument} {src : Source} {c c' : Nat} (h : noTickSource kind c = some (src, c')) :
    c' = c ∧ kind = 2 ∧ src = .piNoTick := by
  unfold noTickSource at h
  split_ifs at h
  cases h
  exact ⟨rfl, ‹_›, rfl⟩

/-- Inside the buffer a digit test reads the digit at the cursor. -/
theorem withDigit_digitAt {s : State} (h : cursorInside s) (run : Digit → Result) :
    withDigit s run = run (digitAt (activeBuffer s) s.cur.toNat) := by
  obtain ⟨d, hd⟩ := bufRead_of_le h
  have hdigit : digitAt (activeBuffer s) s.cur.toNat = d := by
    rw [digitAt, show (activeBuffer s)[s.cur.toNat]? = some d from hd]
    rfl
  simp only [withDigit, hd, hdigit]

/-- A decrement, then `Send`, is the moved source. -/
theorem withDecrement_send {s : State} {src src' : Source} {c' : Nat} {kind : PulseKind} {tick : Bool}
    (h : movedSource src s.cur.toNat = some (src', c')) (hgroup : sourceGroup s src = sendGroup s kind tick) :
    withDecrement s (fun t => send kind tick t) = .next ((s.atCursor c').emitAll (sourceGroup s src')) := by
  obtain ⟨hne, rfl, rfl⟩ := movedSource_eq_some h
  have hcur : s.cur ≠ 0 := fun h0 => hne (by simp [h0])
  rw [withDecrement_of_ne hcur, send_eq, hgroup, atCursor_pred hcur]
  rfl

/-- An operation that the format admits does what its source says: it moves the cursor there and appends the group. -/
theorem exec_of_sourceOf {i : Instr} {s : State} {src : Source} {c' : Nat} (hadm : admitted s.cfg.fmt i = true)
    (hin : cursorInside s) (h : sourceOf i s.cur.toNat = some (src, c')) :
    exec i s = .next ((s.atCursor c').emitAll (sourceGroup s src)) := by
  have run : ∀ body, ifAdmitted i s body = body := ifAdmitted_of_admitted hadm
  cases i
  case decrementSendPI | decrementSendZero | decrementNoTickPI => exact (run _).trans (withDecrement_send h rfl)
  case decrementSendBit mask =>
    obtain ⟨hne, rfl, rfl⟩ := movedSource_eq_some h
    have hcur : s.cur ≠ 0 := fun h0 => hne (by simp [h0])
    have hleft : s.cursorLeft.cur.toNat = s.cur.toNat - 1 := movedLeft_cur_toNat hcur
    refine (run _).trans ?_
    rw [withDecrement_of_ne hcur, withDigit_digitAt (cursorLeft_inside hcur hin), hleft, atCursor_pred hcur]
    rfl
  case sendCoefficientBit mask =>
    cases h
    rw [atCursor_self]
    exact (run _).trans (withDigit_digitAt hin _)
  case sendData kind =>
    obtain ⟨rfl, ⟨rfl, rfl⟩ | ⟨rfl, rfl⟩⟩ := dataSource_eq_some h
    all_goals
      rw [atCursor_self]
      exact run _
  case sendDataNoTick kind =>
    obtain ⟨rfl, rfl, rfl⟩ := noTickSource_eq_some h
    rw [atCursor_self]
    exact run _
  case noDecrementPI | minuteMarker | leapWarningBit | dut1Bit | dst1Bit | dst2Bit =>
    cases h
    rw [atCursor_self]
    exact run _

theorem sourceOf_of_entrySource {irig : Bool} {e : Byte} {c : Nat} {p : Source × Nat}
    (h : entrySource irig e c = some p) :
    ∃ i, decode e = .ok i ∧ (!irig || admittedInIrig i) = true ∧ sourceOf i c = some p := by
  unfold entrySource at h
  split at h
  · split at h
    · exact ⟨_, ‹_›, ‹_›, h⟩
    · cases h
  · cases h

theorem execEntry_of_source {e : Byte} {s : State} {src : Source} {c' : Nat} (hin : cursorInside s)
    (h : entrySource s.cfg.fmt.irig e s.cur.toNat = some (src, c')) :
    execEntry e s = .next ((s.atCursor c').emitAll (sourceGroup s src)) := by
  obtain ⟨i, hdecode, hadm, hsource⟩ := sourceOf_of_entrySource h
  rw [execEntry_of_ok hdecode]
  exact exec_of_sourceOf hadm hin hsource

/-- No operation moves the cursor right. -/
theorem sourceOf_cursor_le {i : Instr} {c c' : Nat} {src : Source} (h : sourceOf i c = some (src, c')) : c' ≤ c := by
  cases i
  case decrementSendPI | decrementSendBit | decrementSendZero | decrementNoTickPI =>
    obtain ⟨-, -, rfl⟩ := movedSource_eq_some h
    omega
  case sendData => exact (dataSource_eq_some h).1.le
  case sendDataNoTick => exact (noTickSource_eq_some h).1.le
  all_goals
    cases h
    exact le_rfl

/-! ## A source sent in each format -/

/-- In WWV format the group of a source is what the spec says it sends (R142, R170 to R172). -/
theorem sourceGroup_sent {s : State} (hwwv : s.cfg.fmt.irig = false) (src : Source) :
    wwvSent s src (s.emitAll (sourceGroup s src)) := by
  have hflag : ∀ v, bitSent v s true (s.emitAll (sendGroup s (flagKind v) true)) := fun v => by
    simpa only [kindSent_flagKind] using send_sent s (flagKind v) true
  have hbit : ∀ v mask, bitSent (decide (v &&& mask ≠ 0)) s true (s.emitAll (sendGroup s (bitTest v mask) true)) :=
    fun v mask => by simpa only [kindSent_bitTest] using send_sent s (bitTest v mask) true
  cases src with
  | zero => exact send_sent s .zero true
  | pi => exact send_sent s .pi true
  | piNoTick => exact send_sent s .pi false
  | marker => exact wwvMarker_sent s
  | digit i mask =>
    have hbuffer : activeBuffer s = wwvBuffer s.ct := if_neg (by simp [hwwv])
    simp only [sourceGroup, hbuffer]
    exact hbit (digitAt (wwvBuffer s.ct) i) mask
  | dst => exact hflag s.dst.active
  | leapWarn => exact hflag s.cfg.leapWarn
  | dut1 mask => exact hbit s.cfg.dut1 mask

/-- The pulse kind of a source in IRIG-B, where a code map holds zeros, position indicators and digit bits only. -/
def irigKind (ds : List Digit) : Source → PulseKind
  | .pi => .pi
  | .digit i mask => bitTest (digitAt ds i) mask
  | _ => .zero

theorem irigMark_irigKind (ds : List Digit) (src : Source) : irigMark (irigKind ds src) = markOf ds src := by
  cases src with
  | digit i mask =>
    simp only [irigKind, markOf, bitTest, flagKind, bne_iff_ne]
    split_ifs <;> rfl
  | _ => rfl

/-- What IRIG-B admits sends a zero, a position indicator or a digit bit. -/
theorem sourceGroup_irig {i : Instr} {c c' : Nat} {src : Source} (hadm : admittedInIrig i = true)
    (h : sourceOf i c = some (src, c')) (s : State) (hirig : s.cfg.fmt.irig = true) :
    sourceGroup s src = irigBit s.cfg (irigKind (irigBuffer s) src) s.bitIndex s.rc := by
  have hsend : ∀ kind tick, sendGroup s kind tick = irigBit s.cfg kind s.bitIndex s.rc := fun _ _ => if_pos hirig
  have hbuffer : activeBuffer s = irigBuffer s := if_pos hirig
  cases i
  case sendData =>
    obtain ⟨-, ⟨-, rfl⟩ | ⟨-, rfl⟩⟩ := dataSource_eq_some h <;> exact hsend _ _
  case sendCoefficientBit mask =>
    cases h
    simp only [sourceGroup, hbuffer]
    exact hsend _ _
  case decrementSendBit mask =>
    obtain ⟨-, rfl, -⟩ := movedSource_eq_some h
    simp only [sourceGroup, hbuffer]
    exact hsend _ _
  case decrementSendPI | decrementSendZero =>
    obtain ⟨-, rfl, -⟩ := movedSource_eq_some h
    exact hsend _ _
  case noDecrementPI =>
    cases h
    exact hsend _ _
  case sendDataNoTick | decrementNoTickPI | minuteMarker | leapWarningBit | dut1Bit | dst1Bit | dst2Bit => cases hadm

/-- One bit of a second in the terms of the code map (R174). -/
theorem irigBit_eq_irigPair {b : Nat} (hb : b < 100) (c : Config) (ds : List Digit) (rc : RcMode) (src : Source) :
    irigBit c (irigKind ds src) (BitVec.ofNat 7 b) rc = irigPair c rc ds b src := by
  have hposition : BitVec.ofNat 7 b = c.irigRcBit ↔ b = c.irigRcBit.toNat := by
    rw [← BitVec.toNat_inj, BitVec.toNat_ofNat, Nat.mod_eq_of_lt (by omega)]
  have hmark : 2 ≤ irigMark (irigKind ds src) ∧ irigMark (irigKind ds src) ≤ 8 := by
    cases irigKind ds src <;> decide
  have hadj := irigAdj_bounds c (BitVec.ofNat 7 b) rc
  have hspace := intervalMs_toNat (v := 10 - irigMark (irigKind ds src) + irigAdj c (BitVec.ofNat 7 b) rc) (by omega)
    (by omega)
  rw [irigBit, irigPair, ← irigMark_irigKind]
  simp only [irigAdj_eq, hposition] at hspace ⊢
  congr 3
  apply BitVec.eq_of_toNat_eq
  rw [BitVec.toNat_ofNat]
  omega

/-! ## The default IRIG-B second -/

/-- The entry of bit position `b` with the default tables and the default frame map. -/
def irigDefaultEntry (b : Nat) : Option Byte :=
  (frameTable defaultFrames (b / 10 + 1)).bind fun tb => tblRead [] tb (b % 10)

/-- The sources that `n` default entries from position `b` on send, from cursor `c`, and the cursor they leave. -/
def irigSources : Nat → Nat → Nat → Option (List Source × Nat)
  | 0, _, c => some ([], c)
  | n + 1, b, c =>
    (irigDefaultEntry b).bind fun e => (entrySource true e c).bind fun p =>
      (irigSources n (b + 1) p.2).map fun q => (p.1 :: q.1, q.2)

/-- The default tables are the code map of R153, and the cursor ends at 0. -/
theorem irigSources_default : irigSources 100 0 21 = some (irigMap, 0) := by decide +kernel

theorem irigSources_succ {n b c d : Nat} {srcs : List Source} (h : irigSources (n + 1) b c = some (srcs, d)) :
    ∃ e src c' rest, irigDefaultEntry b = some e ∧ entrySource true e c = some (src, c') ∧
      irigSources n (b + 1) c' = some (rest, d) ∧ srcs = src :: rest := by
  simp only [irigSources, Option.bind_eq_some_iff, Option.map_eq_some_iff] at h
  obtain ⟨e, he, ⟨src, c'⟩, hsource, ⟨rest, d'⟩, hrest, heq⟩ := h
  cases heq
  exact ⟨e, src, c', rest, he, hsource, hrest, rfl⟩

theorem entrySource_cursor_le {irig : Bool} {e : Byte} {c c' : Nat} {src : Source}
    (h : entrySource irig e c = some (src, c')) : c' ≤ c := by
  obtain ⟨_, -, -, hop⟩ := sourceOf_of_entrySource h
  exact sourceOf_cursor_le hop

/-- A cursor at or left of a cursor fits its register. -/
theorem atCursor_cur_toNat {s : State} {c : Nat} (h : c ≤ s.cur.toNat) : (s.atCursor c).cur.toNat = c :=
  Nat.mod_eq_of_lt (by have := s.cur.isLt; omega)

theorem cursorInside_atCursor {s : State} {c : Nat} (h : c ≤ s.cur.toNat) (hin : cursorInside s) :
    cursorInside (s.atCursor c) := by
  rw [cursorInside, atCursor_cur_toNat h]
  exact h.trans hin

theorem runBit_default {b : Nat} {s : State} {e : Byte} (htables : s.cfg.tables = [])
    (hframes : s.cfg.frames = defaultFrames) (h : irigDefaultEntry b = some e) :
    runBit b s = execEntry e (s.atBit b) := by
  obtain ⟨tb, hframe, hread⟩ := Option.bind_eq_some_iff.1 h
  exact runBit_of_read (hframes ▸ hframe) (htables ▸ hread)

/-- One bit position of the default tables sends the pair of its source. -/
theorem runBit_of_entrySource {b : Nat} {s : State} {e : Byte} {src : Source} {c' : Nat} (hb : b < 100)
    (hirig : s.cfg.fmt.irig = true) (htables : s.cfg.tables = []) (hframes : s.cfg.frames = defaultFrames)
    (hin : cursorInside s) (he : irigDefaultEntry b = some e) (h : entrySource true e s.cur.toNat = some (src, c')) :
    runBit b s = .next (((s.atBit b).atCursor c').emitAll (irigPair s.cfg s.rc (irigBuffer s) b src)) := by
  obtain ⟨i, -, hadm, hop⟩ := sourceOf_of_entrySource h
  have hgroup : sourceGroup (s.atBit b) src = irigPair s.cfg s.rc (irigBuffer s) b src :=
    (sourceGroup_irig hadm hop (s.atBit b) hirig).trans (irigBit_eq_irigPair hb _ _ _ _)
  rw [runBit_default htables hframes he, execEntry_of_source (s := s.atBit b) hin (by exact hirig ▸ h), hgroup]

/-- The pairs of the sources from bit position `b` on. -/
def pairsFrom (c : Config) (rc : RcMode) (ds : List Digit) (b : Nat) (srcs : List Source) : List PulseSpec :=
  (srcs.zipIdx b).flatMap fun p => irigPair c rc ds p.2 p.1

theorem pairsFrom_cons (c : Config) (rc : RcMode) (ds : List Digit) (b : Nat) (src : Source) (srcs : List Source) :
    pairsFrom c rc ds b (src :: srcs) = irigPair c rc ds b src ++ pairsFrom c rc ds (b + 1) srcs := by
  simp [pairsFrom]

/-- The loop over default entries sends their sources pair by pair and raises nothing (R152, R153). -/
theorem runBits_of_irigSources {n b : Nat} {s : State} {srcs : List Source} {d : Nat} (hb : b + n ≤ 100)
    (hirig : s.cfg.fmt.irig = true) (htables : s.cfg.tables = []) (hframes : s.cfg.frames = defaultFrames)
    (hclear : s.fault = false) (hin : cursorInside s) (h : irigSources n b s.cur.toNat = some (srcs, d)) :
    runBits n b s = .next ((((s.atCursor d).atBit 0).emitAll (pairsFrom s.cfg s.rc (irigBuffer s) b srcs))) := by
  induction n generalizing b s srcs with
  | zero =>
    cases h
    have hnone : pairsFrom s.cfg s.rc (irigBuffer s) b [] = [] := rfl
    rw [atCursor_self, hnone, State.emitAll, List.append_nil]
    rfl
  | succ n ih =>
    obtain ⟨e, src, c', rest, he, hsource, hrest, rfl⟩ := irigSources_succ h
    have hle := entrySource_cursor_le hsource
    have hbit := runBit_of_entrySource (by omega) hirig htables hframes hin he hsource
    have hloop := ih (s := ((s.atBit b).atCursor c').emitAll (irigPair s.cfg s.rc (irigBuffer s) b src))
      (b := b + 1) (by omega) hirig htables hframes hclear (cursorInside_atCursor (s := s) hle hin)
      (by rwa [emitAll_cur, atCursor_cur_toNat (s := s.atBit b) hle])
    rw [runBits_of_clear hbit hclear, hloop, pairsFrom_cons, ← emitAll_emitAll]
    rfl

/-- AdvanceSecond raises nothing. -/
theorem clear_of_tickAdvances {s u : State} {rc : RcMode} {rest : List Command} {extra : Bool}
    (h : tickAdvances s rc rest u extra) : u.fault = false := by
  obtain ⟨-, -, hsame, -⟩ := tickAdvances_sameOutsideCivil h
  obtain ⟨-, hclear, -, -⟩ := h
  exact hsame.trans hclear

/-- The whole state after an IRIG-B TICK with the default tables and the default frame map. -/
theorem step_of_irigDefault {s u : State} {rc : RcMode} {rest : List Command} {extra : Bool}
    (hirig : s.cfg.fmt.irig = true) (htables : s.cfg.tables = []) (hframes : s.cfg.frames = defaultFrames)
    (hadv : tickAdvances s rc rest u extra) :
    step s = .next { u with
      out := extraGroup u extra ++ irigSecond u.cfg rc (irigBuffer u), cur := 0, bitIndex := 0, rc := .none } := by
  obtain ⟨hcfg, hrc, hout⟩ := tickAdvances_keeps hadv
  rw [← hcfg] at hirig htables hframes
  have hclear := clear_of_tickAdvances hadv
  have hloop := runBits_of_irigSources (s := irigPrepare (u.emitAll (extraGroup u extra))) le_rfl hirig htables hframes
    hclear (cursorInside_irigPrepare hirig) irigSources_default
  rw [step_of_irig hirig hadv, hloop]
  simp only [finishTick, State.emitAll, hout, hrc, List.nil_append]
  rfl

/-! ## The default WWV second -/

/-- The source of second `n` of the default table, from cursor `c`. -/
def wwvSource (n c : Nat) : Option (Source × Nat) := (tblRead [] .wwv n).bind fun e => entrySource false e c

theorem wwvSource_cursor_le {n c c' : Nat} {src : Source} (h : wwvSource n c = some (src, c')) : c' ≤ c := by
  obtain ⟨e, -, hsource⟩ := Option.bind_eq_some_iff.1 h
  exact entrySource_cursor_le hsource

/-- The cursor that second `n` of a full minute starts from: 8 at second 0 (R144), else where the second before left
it. -/
def wwvCursorBefore (n : Nat) : Nat := if n = 0 then 8 else wwvCursorAfter (n - 1)

/-- In a full minute the default table is the code map of R142, and the cursor moves as it does in W13. -/
theorem wwvSource_fullMinute : ∀ n < 61,
    wwvSource n (wwvCursorBefore n) = (wwvMap[n]?).map fun src => (src, wwvCursorAfter n) := by decide

/-- From a cursor at or above the one of a full minute every entry of the default table sends a source, and leaves the
cursor at or above the one of a full minute (70_reset_and_hazards.md R303). -/
theorem wwvSource_fromAbove : ∀ n < 61, ∀ c < 9, wwvCursorBefore n ≤ c →
    ∃ p ∈ wwvSource n c, wwvCursorAfter n ≤ p.2 := by decide

/-- The state the entry of a WWV TICK runs in (R144). -/
def wwvStart (u : State) (extra : Bool) : State :=
  { u with out := extraGroup u extra, cur := if u.ct.second = 0 then 8 else u.cur, bitIndex := 0 }

/-- A WWV TICK with the default table sends the source of the second that begins, and raises nothing. -/
theorem step_of_wwvSource {s u : State} {rc : RcMode} {rest : List Command} {extra : Bool} {src : Source} {c' : Nat}
    (hwwv : s.cfg.fmt.irig = false) (htables : s.cfg.tables = []) (hcur : cursorInside s)
    (hadv : tickAdvances s rc rest u extra)
    (h : wwvSource u.ct.second.toNat (wwvStart u extra).cur.toNat = some (src, c')) :
    step s = .next (((wwvStart u extra).atCursor c').emitAll (sourceGroup (wwvStart u extra) src)).endTick := by
  obtain ⟨hcfg, -, hout⟩ := tickAdvances_keeps hadv
  obtain ⟨e, hread, hsource⟩ := Option.bind_eq_some_iff.1 h
  rw [← hcfg] at hwwv htables
  have hstart : wwvPrepare (u.emitAll (extraGroup u extra)) = wwvStart u extra := by
    simp [wwvPrepare, wwvStart, State.emitAll, hout]
  have hinside := cursorInside_of_tickAdvances hcur hadv
  have hin : cursorInside (wwvStart u extra) := hstart ▸ cursorInside_wwvPrepare (s := u.emitAll _) hwwv hinside
  rw [step_of_wwv hwwv hadv, hstart, runEntry_of_read (s := wwvStart u extra) (by exact htables ▸ hread),
    execEntry_of_source hin (by exact hwwv ▸ hsource)]
  rfl

/-- A second begins at 0 or at the one after. -/
theorem second_of_tickAdvances {s u : State} {rc : RcMode} {rest : List Command} {extra : Bool} (hs : CivilInv s)
    (h : tickAdvances s rc rest u extra) : u.ct.second = 0 ∨ u.ct.second.toNat = s.ct.second.toNat + 1 := by
  obtain ⟨-, -, -, hadv⟩ := h
  obtain ⟨hpasses, rfl⟩ | ⟨⟨-, h59, -⟩, rfl⟩ | ⟨-, hour, dst, off, -, -, rfl⟩ :=
    advanceSecond_outcomes (s := ticking s rc rest) hs.range hs.leap hadv
  · exact .inr (passesNow_second hpasses)
  · have h59 : s.ct.second = 59 := h59
    exact .inr (by simp [h59])
  · exact .inl (settled_second _ _ _)

/-- The cursor a WWV TICK starts its entry from, against that of a full minute: at second 0 it is reset, and at any
other second it stands where the TICK before left it. -/
theorem wwvStart_cursor {s u : State} {rc : RcMode} {rest : List Command} {extra : Bool} (hs : CivilInv s)
    (h : tickAdvances s rc rest u extra) :
    (u.ct.second = 0 ∧ (wwvStart u extra).cur.toNat = wwvCursorBefore u.ct.second.toNat) ∨
    (u.ct.second ≠ 0 ∧ (wwvStart u extra).cur = s.cur ∧
      wwvCursorBefore u.ct.second.toNat = wwvCursorAfter s.ct.second.toNat) := by
  obtain ⟨hcur, -⟩ := tickAdvances_sameOutsideCivil h
  by_cases hzero : u.ct.second = 0
  · exact .inl ⟨hzero, by simp [wwvStart, wwvCursorBefore, hzero]⟩
  · have hnext := (second_of_tickAdvances hs h).resolve_left hzero
    exact .inr ⟨hzero, (if_neg hzero).trans hcur, by simp [wwvCursorBefore, hnext]⟩

theorem second_lt_of_tickAdvances {s u : State} {rc : RcMode} {rest : List Command} {extra : Bool} (hs : CivilInv s)
    (h : tickAdvances s rc rest u extra) : u.ct.second.toNat < 61 := by
  obtain ⟨-, -, -, -, -, hsecond⟩ := (civilInv_of_tickAdvances hs h).range
  omega

/-! ## A run on the default tables -/

/-- What a run of legal TICKs on the default tables keeps. -/
structure DefaultRun (s : State) : Prop where
  inv : Inv s
  tables : s.cfg.tables = []
  frames : s.cfg.frames = defaultFrames
  clear : s.fault = false
  ticks : ∀ k ∈ s.cmds, ∃ code : BitVec 2, k = .tick code ∧ code.toNat < 3
  cursor : s.cfg.fmt.irig = false → wwvCursorAfter s.ct.second.toNat ≤ s.cur.toNat

theorem defaultRun_of_tickAdvances {s u t : State} {rc : RcMode} {rest : List Command} {extra : Bool}
    (hs : DefaultRun s) (hadv : tickAdvances s rc rest u extra) (hstep : step s = .next t) (hclear : t.fault = false)
    (hcursor : s.cfg.fmt.irig = false → wwvCursorAfter u.ct.second.toNat ≤ t.cur.toNat) : DefaultRun t := by
  obtain ⟨hct, -, -, -, hcfg, -, hcmds, -⟩ := tickAdvances_step_keeps hadv hstep
  have ⟨_, _, ⟨code, hcommand, _⟩, _⟩ := hadv
  exact {
    inv := inv_of_tickAdvances hs.inv hadv hstep
    tables := by rw [hcfg, hs.tables]
    frames := by rw [hcfg, hs.frames]
    clear := hclear
    ticks := fun k hk => hs.ticks k (by rw [hcommand]; exact List.mem_cons_of_mem _ (hcmds ▸ hk))
    cursor := by rw [hcfg, hct]; exact hcursor }

theorem cursor_le_of_wwv {s : State} (hwwv : s.cfg.fmt.irig = false) (h : cursorInside s) : s.cur.toNat ≤ 8 := by
  simpa [cursorInside, lastIndex, hwwv] using h

/-- In WWV format the entry of the second that begins sends, and leaves the cursor at or above that of a full minute. -/
theorem defaultRun_step_wwv {s u : State} {rc : RcMode} {rest : List Command} {extra : Bool} (hs : DefaultRun s)
    (hwwv : s.cfg.fmt.irig = false) (hadv : tickAdvances s rc rest u extra) : ∃ t, step s = .next t ∧ DefaultRun t := by
  have hcivil := civilInv_of_inv hs.inv
  have habove : wwvCursorBefore u.ct.second.toNat ≤ (wwvStart u extra).cur.toNat ∧
      (wwvStart u extra).cur.toNat < 9 := by
    have hle := cursor_le_of_wwv hwwv hs.inv.cursor
    obtain ⟨hzero, hstart⟩ | ⟨-, hstart, hbefore⟩ := wwvStart_cursor hcivil hadv
    · rw [hstart, hzero]
      exact ⟨le_rfl, by decide⟩
    · rw [hstart, hbefore]
      exact ⟨hs.cursor hwwv, by omega⟩
  have hentry := wwvSource_fromAbove _ (second_lt_of_tickAdvances hcivil hadv) _ habove.2 habove.1
  obtain ⟨⟨src, c'⟩, hsource, hc'⟩ := hentry
  have hclear := clear_of_tickAdvances hadv
  have hstep := step_of_wwvSource hwwv hs.tables hs.inv.cursor hadv hsource
  refine ⟨_, hstep, defaultRun_of_tickAdvances hs hadv hstep hclear fun _ => ?_⟩
  change _ ≤ ((wwvStart u extra).atCursor c').cur.toNat
  rwa [atCursor_cur_toNat (wwvSource_cursor_le hsource)]

/-- Each legal TICK on the default tables answers, raises nothing and keeps the run. -/
theorem defaultRun_step {s : State} (hs : DefaultRun s) : ∃ t, step s = .next t ∧ DefaultRun t := by
  match hcmds : s.cmds with
  | [] => exact ⟨s, step_idle hcmds, hs⟩
  | k :: rest =>
    obtain ⟨code, rfl, hcode⟩ := hs.ticks k (by simp [hcmds])
    obtain ⟨rc, hrc⟩ := Option.isSome_iff_exists.1 (rcOfCode_isSome_of_lt code hcode)
    obtain ⟨u, extra, hadv⟩ :=
      tickAdvances_of_legal hcmds hrc hs.inv.loaded hs.clear (civilInv_of_inv hs.inv) hs.inv.config.2
    cases hfmt : s.cfg.fmt.irig with
    | true =>
      have hstep := step_of_irigDefault hfmt hs.tables hs.frames hadv
      have hclear := clear_of_tickAdvances hadv
      exact ⟨_, hstep, defaultRun_of_tickAdvances hs hadv hstep hclear (by simp [hfmt])⟩
    | false => exact defaultRun_step_wwv hs hfmt hadv

theorem safeFor_of_defaultRun (n : Nat) {s : State} (hs : DefaultRun s) : safeFor n s := by
  induction n generalizing s with
  | zero => exact hs.clear
  | succ n ih =>
    obtain ⟨t, hstep, ht⟩ := defaultRun_step hs
    exact ⟨hs.clear, t, hstep, ih ht⟩

end Sys2Proof.Machine
end

section
/-! PROOFS. The statements of 41_format_tables.md on a second with the default tables. -/

namespace Sys2Proof.Proofs

open Sys2Proof.Machine Sys2Proof.Spec

/-- Settles O40: the loop over the default entries is the code map, bit by bit, from cursor 21 to cursor 0. -/
theorem defaultIrigSecondSendsTheCodeMap : Obligations.DefaultIrigSecondSendsTheCodeMap := by
  intro s u rc rest extra _ hirig htables hframes hadv
  exact ⟨step_of_irigDefault hirig htables hframes hadv, clear_of_tickAdvances hadv⟩

/-- Settles O41: from the cursor of a full minute the default entry is the source of the map, and it leaves that
cursor. -/
theorem defaultWwvSecondSendsTheCodeMap : Obligations.DefaultWwvSecondSendsTheCodeMap := by
  intro s u rc rest extra hs hwwv htables hadv hfull
  obtain ⟨hcfg, rfl, -⟩ := tickAdvances_keeps hadv
  have hclear := clear_of_tickAdvances hadv
  have hlt := second_lt_of_tickAdvances (civilInv_of_inv hs) hadv
  have hcur : (wwvStart u extra).cur.toNat = wwvCursorBefore u.ct.second.toNat := by
    obtain ⟨-, hstart⟩ | ⟨hne, hstart, hbefore⟩ := wwvStart_cursor (civilInv_of_inv hs) hadv
    · exact hstart
    · rw [hstart, hbefore]
      exact hfull.resolve_left hne
  obtain ⟨src, hsrc⟩ : ∃ src, wwvMap[u.ct.second.toNat]? = some src := ⟨_, List.getElem?_eq_getElem (by exact hlt)⟩
  have hsource := wwvSource_fullMinute _ hlt
  rw [← hcur, hsrc, Option.map_some] at hsource
  refine ⟨src, _, hsrc, step_of_wwvSource hwwv htables hs.cursor hadv hsource, hclear, ?cursor, ?sent⟩
  case cursor => exact atCursor_cur_toNat (wwvSource_cursor_le hsource)
  case sent =>
    rw [← sourceGroup_atCursor _ (wwvCursorAfter u.ct.second.toNat)]
    exact sourceGroup_sent (s := (wwvStart u extra).atCursor _) (hcfg ▸ hwwv) src

/-- Settles O42, by induction on the steps of a run on the default tables. -/
theorem defaultTablesNeverFault : Obligations.DefaultTablesNeverFault :=
  fun _ hs htables hframes hclear hticks hcursor n =>
    safeFor_of_defaultRun n ⟨hs, htables, hframes, hclear, hticks, hcursor⟩

end Sys2Proof.Proofs
end
